-- ==== Sys2Proof/Word.lean ====
section
/-! DEFINITION. The two word types of the framer: the byte (R51, R8: unsigned, 0 to 255) and the 16-bit value
(the length field R84, the checksum R86). Everything computed with them stands in Machine/Operands.lean. -/

namespace Sys2Proof

/-- R8, R51: a byte, an unsigned integer 0 to 255; the unit of every space. -/
abbrev Byte := BitVec 8

/-- A 16-bit unsigned value: `LEN` (R84), `CHK` (R86), `RXLEN` (R24), `RXSUM` (R25). -/
abbrev Word16 := BitVec 16

end Sys2Proof
end

