-- ==== Sys2Proof/Config.lean ====
section
/-! DEFINITION. What the source fixes (R5, as literals), the answers a transport can give (R55), and the FREE VALUES:
constants without a body, which nothing in Lean can evaluate (log entries 2, 7, 18, 19). -/

namespace Sys2Proof

/-- R55: the three line events one `TransportRead()` can return. -/
inductive LineEvent where
  /-- the oldest unread byte of the receive queue -/
  | byte (b : Byte)
  /-- no byte became available within the bounded wait -/
  | timeout
  /-- the transport's read primitive failed -/
  | error
deriving DecidableEq, Repr, Inhabited

/-- C9, U17: from which sequence the indices of the read-parameters reply count. -/
inductive ReplyIndexing where
  /-- indices into the frame payload `p` -/
  | payload
  /-- indices into the Reply `r = [t] ++ p` -/
  | reply
deriving DecidableEq, Repr, Inhabited

namespace Config

/-- R5 `MARKER_HI`: the byte the RX deframer hunts for. -/
def markerHi : Byte := 0xEF
/-- R5 `MARKER_LO`: the second marker byte. -/
def markerLo : Byte := 0x01
/-- R5, R82 `ADDR`: every address byte the TX framer emits. -/
def addrByte : Byte := 0xFF
/-- R5 `HDR`: bytes from the marker through the length field. -/
def hdr : Nat := 9
/-- R5 `LEN_BIAS`: the length field is the payload length plus 2. -/
def lenBias : Nat := 2
/-- R5 `T_CMD`. -/
def tCmd : Byte := 0x01
/-- R5 `T_DATA`. -/
def tData : Byte := 0x02
/-- R5 `T_ACK`. -/
def tAck : Byte := 0x07
/-- R5 `T_END`. -/
def tEnd : Byte := 0x08
/-- R10, R126: the longest payload whose length field fits 16 bits. -/
def maxPayload : Nat := 65533
/-- R5 `CHUNK`: host level, bytes per data chunk of a template transfer. -/
def chunk : Nat := 128
/-- R5 `TEMPLATE`: host level, bytes of one template. -/
def template : Nat := 512

/-- FREE VALUE (R55, log entry 2): the answer of the `n`-th unscheduled `TransportRead()`. -/
opaque lineEvent : Nat → LineEvent
/-- FREE VALUE (R56, log entry 2): whether the `n`-th unscheduled `TransportWrite` or `TransportFlush` answers `Ok`. -/
opaque writeOk : Nat → Bool
/-- FREE VALUE (R222, log entry 2): whether the `n`-th unscheduled `connect()` of the transport succeeds. -/
opaque opensOk : Nat → Bool
/-- FREE VALUE (R56, R125, U11, log entry 7): how many of the bytes not yet flushed reach the line after an `Error`. -/
opaque reached : Nat → Nat
/-- FREE VALUE (R241, R247, log entry 7): how many of the bytes not yet flushed are on the line after a write that
answered `Ok`. -/
opaque early : Nat → Nat
/-- FREE VALUE (R55, U12, log entry 19): how many entries of the receive queue a read that answered `Error` removes. -/
opaque removed : Nat → Nat
/-- FREE VALUE (C9, U17, log entry 18): the indexing of the read-parameters reply. -/
opaque paramsIndexing : ReplyIndexing

end Config

end Sys2Proof
end

