-- ==== Sys2Proof/Syntax.lean ====
section
/-! DEFINITION. The instruction set: one constructor of `Instr` for each of the 38 rows of spec/opcode_table.json.
The rows are the host operations (R180), the pseudo-operations (R100), the frame kinds (R90), the command
opcodes (R96) and the status codes (R97). -/

namespace Sys2Proof

/-- R82: the address field is four bytes, in wire order (R52). -/
structure Addr where
  a0 : Byte
  a1 : Byte
  a2 : Byte
  a3 : Byte
deriving DecidableEq, Repr

/-- The two forms of a frame instruction (log entry 9). R90: every frame kind has the semantics of R121 on TX and of
R157 on RX; R83 says which side sends which tag, and the framer itself treats all alike. -/
inductive FrameForm where
  /-- TX, R121: the host hands payload `p` to the TX framer, which builds every other field. -/
  | send (p : List Byte)
  /-- RX, R50, R59, R64: the sensor puts a frame on the line-in stream. `addr` and `len` are what stands in its
  `ADDR` and `LEN` fields (neither need be what TX would build: R92, R93), `body` what follows `LEN`. -/
  | recv (addr : Addr) (len : Word16) (body : List Byte)
deriving DecidableEq, Repr

/-- R96: the command opcodes the source lists. -/
inductive Opcode where
  | getImage | img2Tz | hsSearch | regModel | store | load | upload | download
  | delete | empty | setParam | readParams | verifyPwd | readSysinfo | templateCount
deriving DecidableEq, Repr

/-- R97: the status codes the source lists. -/
inductive Status where
  | ok | rxErr | noFinger | imageFail | notFound | enrollMismatch
deriving DecidableEq, Repr

/-- The rows of spec/opcode_table.json. For the rows `OPC.*` and `ST_*` the form `f` holds the bytes AFTER the
opcode or status byte; for the frame kinds it holds the whole payload (R85). -/
inductive Instr where
  -- host operations (R180)
  /-- R120: `ENCODE t, p`. -/
  | encode (t : Byte) (p : List Byte)
  /-- R140: `DECODE`. -/
  | decode
  /-- R240: `RESET`. -/
  | reset
  -- pseudo-operations (R100)
  /-- R181: `EXCHANGE t, [p]`. -/
  | exchange (t : Byte) (p : List Byte)
  /-- R100: `CMD [p]` is `ENCODE 01, [p]`. -/
  | cmd (p : List Byte)
  /-- R100: `DATA [p]` is `ENCODE 02, [p]`. -/
  | data (p : List Byte)
  /-- R100: `END [p]` is `ENCODE 08, [p]`. -/
  | endData (p : List Byte)
  /-- R100, R184: `VERIFY_PWD` is `EXCHANGE 01, [13 00 00 00 00]`. -/
  | verifyPwd
  /-- R100, R186: `GET_IMAGE` is `EXCHANGE 01, [01]`. -/
  | getImage
  /-- R100, R192: `EMPTY` is `EXCHANGE 01, [0D]`. -/
  | empty
  /-- R100, R193: `READ_PARAMS` is `EXCHANGE 01, [0F]`. -/
  | readParams
  /-- R100, R194: `SET_SECURITY n` is `EXCHANGE 01, [0E 05 n]`. -/
  | setSecurity (n : Byte)
  -- frame kinds (R90)
  /-- `FRAME.CMD`, `PTYPE` = 01. -/
  | frameCmd (f : FrameForm)
  /-- `FRAME.DATA`, `PTYPE` = 02. -/
  | frameData (f : FrameForm)
  /-- `FRAME.ACK`, `PTYPE` = 07. -/
  | frameAck (f : FrameForm)
  /-- `FRAME.END`, `PTYPE` = 08. -/
  | frameEnd (f : FrameForm)
  /-- `FRAME.OTHER`, any other `PTYPE` (R91). -/
  | frameOther (t : Byte) (f : FrameForm)
  -- command opcodes (R96)
  | opcGetImage (f : FrameForm)
  | opcImg2Tz (f : FrameForm)
  | opcHsSearch (f : FrameForm)
  | opcRegModel (f : FrameForm)
  | opcStore (f : FrameForm)
  | opcLoad (f : FrameForm)
  | opcUpload (f : FrameForm)
  | opcDownload (f : FrameForm)
  | opcDelete (f : FrameForm)
  | opcEmpty (f : FrameForm)
  | opcSetParam (f : FrameForm)
  | opcReadParams (f : FrameForm)
  | opcVerifyPwd (f : FrameForm)
  | opcReadSysinfo (f : FrameForm)
  | opcTemplateCount (f : FrameForm)
  -- status codes (R97)
  | stOk (f : FrameForm)
  | stRxErr (f : FrameForm)
  | stNoFinger (f : FrameForm)
  | stImageFail (f : FrameForm)
  | stNotFound (f : FrameForm)
  | stEnrollMismatch (f : FrameForm)
deriving DecidableEq, Repr

end Sys2Proof
end

