-- ==== Sys2Proof/Machine/Operands.lean ====
section
/-! DEFINITION. Operand forms and arithmetic: byte order (R8, R52, R88), the checksum (R86, R122), the frame (R10,
R121), the image of an arriving frame (R58), the numeric values of opcodes, statuses and tags (R83, R96, R97),
and slices of a buffer (R8, R36). -/

namespace Sys2Proof

namespace Machine

/-- R8: `hi8(v) = v[15:8]`. -/
def hi8 (v : Word16) : Byte := v.extractLsb' 8 8

/-- R8: `lo8(v) = v[7:0]`. -/
def lo8 (v : Word16) : Byte := v.extractLsb' 0 8

/-- R8, R88: `be16(h, l) = 256*h + l`. -/
def be16 (h l : Byte) : Word16 := BitVec.ofNat 16 (256 * h.toNat + l.toNat)

/-- R8: `Σ s`, the sum of the elements as an unbounded integer. -/
def byteSum : List Byte → Nat
  | [] => 0
  | b :: bs => b.toNat + byteSum bs

/-- R8, R36: the slice `s[a .. b)`, which exists only where `a ≤ b ≤ |s|`. -/
def slice? (a b : Nat) (s : List Byte) : Option (List Byte) :=
  if a ≤ b ∧ b ≤ s.length then some ((s.take b).drop a) else none

/-- R10, R84: the value of the length field of a frame with payload `p`. -/
def lenField (p : List Byte) : Word16 := BitVec.ofNat 16 (p.length + Config.lenBias)

/-- R86, R122: `Chk(t, p)`, reduced modulo 65536 once at the end. -/
def chk (t : Byte) (p : List Byte) : Word16 :=
  BitVec.ofNat 16 ((hi8 (lenField p)).toNat + (lo8 (lenField p)).toNat + t.toNat + byteSum p)

/-- R80, R81, R82, R121: the nine header bytes the TX framer builds. -/
def txHeader (t : Byte) (p : List Byte) : List Byte :=
  [Config.markerHi, Config.markerLo, Config.addrByte, Config.addrByte, Config.addrByte, Config.addrByte,
    t, hi8 (lenField p), lo8 (lenField p)]

/-- R10, R121: `Frame(t, p)`. -/
def frame (t : Byte) (p : List Byte) : List Byte :=
  txHeader t p ++ p ++ [hi8 (chk t p), lo8 (chk t p)]

/-- R58, R80: the bytes of a frame as it stands on the line, whatever its `ADDR`, `LEN` and body. -/
def image (t : Byte) (addr : Addr) (len : Word16) (body : List Byte) : List Byte :=
  [Config.markerHi, Config.markerLo, addr.a0, addr.a1, addr.a2, addr.a3, t, hi8 len, lo8 len] ++ body

/-- R94, R92: how many bytes follow the header: `LEN`, and none where `LEN < 2` (such a header is no frame, and
the deframer reads nothing behind it). -/
def bodyLength (len : Word16) : Nat := if len.toNat < Config.lenBias then 0 else len.toNat

/-- R96: the value of each listed command opcode. -/
def opcodeByte : Opcode → Byte
  | .getImage => 0x01
  | .img2Tz => 0x02
  | .hsSearch => 0x04
  | .regModel => 0x05
  | .store => 0x06
  | .load => 0x07
  | .upload => 0x08
  | .download => 0x09
  | .delete => 0x0C
  | .empty => 0x0D
  | .setParam => 0x0E
  | .readParams => 0x0F
  | .verifyPwd => 0x13
  | .readSysinfo => 0x16
  | .templateCount => 0x1D

/-- R97: the value of each listed status code. -/
def statusByte : Status → Byte
  | .ok => 0x00
  | .rxErr => 0x01
  | .noFinger => 0x02
  | .imageFail => 0x03
  | .notFound => 0x09
  | .enrollMismatch => 0x0A

/-- R96 read backwards: the listed opcode a byte is, if it is one. -/
def opcodeOf (b : Byte) : Option Opcode :=
  [Opcode.getImage, .img2Tz, .hsSearch, .regModel, .store, .load, .upload, .download, .delete, .empty, .setParam,
    .readParams, .verifyPwd, .readSysinfo, .templateCount].find? (fun o => opcodeByte o = b)

/-- R97 read backwards: the listed status a byte is, if it is one. -/
def statusOf (b : Byte) : Option Status :=
  [Status.ok, .rxErr, .noFinger, .imageFail, .notFound, .enrollMismatch].find? (fun o => statusByte o = b)

/-- R98, R184: the payload of the verify-password command with the zero key. -/
def verifyPayload : List Byte := [opcodeByte .verifyPwd, 0x00, 0x00, 0x00, 0x00]

/-- R98: the payload of the set-parameter command for the security level. -/
def securityPayload (level : Byte) : List Byte := [opcodeByte .setParam, 0x05, level]

/-- R98: the payload of the store command: slot 1, then the position as two big-endian bytes. -/
def storePayload (pos : Word16) : List Byte := [opcodeByte .store, 0x01, hi8 pos, lo8 pos]

/-- R98: the payload of the image-to-template command. -/
def img2TzPayload (slot : Byte) : List Byte := [opcodeByte .img2Tz, slot]

end Machine

open Machine

/-- The form whose payload is `b` followed by the payload of `f`. -/
def FrameForm.cons (b : Byte) (f : FrameForm) : FrameForm :=
  match f with
  | .send p => .send (b :: p)
  | .recv addr len body => .recv addr len (b :: body)

/-- R85, R88: the first payload byte of a frame, where the payload is not empty. -/
def FrameForm.firstPayload (f : FrameForm) : Option Byte :=
  match f with
  | .send p => p.head?
  | .recv _ len body => if 3 ≤ len.toNat then body.head? else none

/-- R10, R94: the form's bytes fit its length field. -/
def FrameForm.sized (f : FrameForm) : Bool :=
  match f with
  | .send p => decide (p.length ≤ Config.maxPayload)
  | .recv _ len body => decide (body.length = bodyLength len)

/-- The check of a row whose first payload byte `b` is fixed: the payload holds at least that byte. -/
def FrameForm.sizedAfter (b : Byte) (f : FrameForm) : Bool :=
  (FrameForm.cons b f).sized &&
    match f with
    | .send _ => true
    | .recv _ len _ => decide (3 ≤ len.toNat)

end Sys2Proof
end

