-- ==== Sys2Proof/Decode.lean ====
section
/-! DEFINITION. The decoder, total on any bytes, and the encoder.
An instruction word is one of three kinds (log entries 8, 9, 10):
- `<` (0x3C) and then the bytes of a frame as it stands on the line (R58): a frame that arrives;
- `>` (0x3E) and then the bytes of `Frame(t, p)` (R121): a frame handed to the TX framer;
- a host operation in the notation of R99 and R100, as ASCII text, ended by a line feed (0x0A).
A frame decodes to the most specific row: an opcode row (R96) or a status row (R97) where its tag and first payload
byte select one, else the row of its tag (R90). -/

namespace Sys2Proof

/-- Why bytes are no instruction word. -/
inductive DecodeError where
  /-- there are no bytes -/
  | nothing
  /-- no operation of R99 or R100 has this name -/
  | unknownOperation
  /-- the operands are not written as R99 and R100 write them -/
  | badOperand
  /-- R92: the bytes after `<` or `>` do not begin with the start marker -/
  | badMarker
  /-- R82: a frame handed to TX carries another address than `FF FF FF FF` -/
  | badAddress
  /-- R84: a frame handed to TX has a `LEN` below 2 -/
  | badLength
  /-- R86: a frame handed to TX has another checksum than the formula gives -/
  | badChecksum
  /-- the bytes end before the frame does (R94) -/
  | truncated
deriving DecidableEq, Repr

namespace Decode

open Machine

/-! ## The notation of R99 and R100 -/

/-- ASCII text as bytes. -/
def ascii (cs : List Char) : List Byte := cs.map fun c => BitVec.ofNat 8 c.toNat

def kwEncode : List Byte := ascii ['E', 'N', 'C', 'O', 'D', 'E', ' ']
def kwExchange : List Byte := ascii ['E', 'X', 'C', 'H', 'A', 'N', 'G', 'E', ' ']
def kwCmd : List Byte := ascii ['C', 'M', 'D', ' ', '[']
def kwData : List Byte := ascii ['D', 'A', 'T', 'A', ' ', '[']
def kwEnd : List Byte := ascii ['E', 'N', 'D', ' ', '[']
def kwDecode : List Byte := ascii ['D', 'E', 'C', 'O', 'D', 'E', '\n']
def kwReset : List Byte := ascii ['R', 'E', 'S', 'E', 'T', '\n']
def kwVerifyPwd : List Byte := ascii ['V', 'E', 'R', 'I', 'F', 'Y', '_', 'P', 'W', 'D', '\n']
def kwGetImage : List Byte := ascii ['G', 'E', 'T', '_', 'I', 'M', 'A', 'G', 'E', '\n']
def kwEmpty : List Byte := ascii ['E', 'M', 'P', 'T', 'Y', '\n']
def kwReadParams : List Byte := ascii ['R', 'E', 'A', 'D', '_', 'P', 'A', 'R', 'A', 'M', 'S', '\n']
def kwSetSecurity : List Byte := ascii ['S', 'E', 'T', '_', 'S', 'E', 'C', 'U', 'R', 'I', 'T', 'Y', ' ']
/-- between the type and the payload of `ENCODE t, [p]` -/
def kwComma : List Byte := ascii [',', ' ', '[']

/-- The line feed that ends an operation (log entry 8). -/
def lineFeed : Byte := 0x0A
/-- `]`, which closes a payload. -/
def closeBracket : Byte := 0x5D
/-- the space between two bytes of a payload -/
def space : Byte := 0x20
/-- `<`: a frame that arrives on the line. -/
def arrives : Byte := 0x3C
/-- `>`: a frame handed to the TX framer. -/
def handedOver : Byte := 0x3E

/-- The digit of a value 0 to 15, capitals as R99 writes them. -/
def hexDigit (v : Nat) : Byte := if v < 10 then BitVec.ofNat 8 (48 + v) else BitVec.ofNat 8 (55 + v)

/-- R99: a byte as two hex digits. -/
def hexByte (b : Byte) : List Byte := [hexDigit (b.toNat / 16), hexDigit (b.toNat % 16)]

/-- The value of a hex digit, capitals only. -/
def unhexDigit (c : Byte) : Option Nat :=
  if 48 ≤ c.toNat ∧ c.toNat ≤ 57 then some (c.toNat - 48)
  else if 65 ≤ c.toNat ∧ c.toNat ≤ 70 then some (c.toNat - 55)
  else none

/-- The byte two hex digits write. -/
def unhexByte (c d : Byte) : Option Byte :=
  match unhexDigit c, unhexDigit d with
  | some x, some y => some (BitVec.ofNat 8 (16 * x + y))
  | _, _ => none

/-- What follows `kw` in `bs`, where `bs` begins with `kw`. -/
def strip (kw bs : List Byte) : Option (List Byte) :=
  match kw, bs with
  | [], bs => some bs
  | k :: ks, b :: bs => if k = b then strip ks bs else none
  | _ :: _, [] => none

/-- One byte or more, separated by single spaces and closed by `]`. -/
def items (bs : List Byte) : Option (List Byte × List Byte) :=
  match bs with
  | c :: d :: e :: rest =>
    match unhexByte c d with
    | none => none
    | some v =>
      if e = closeBracket then some ([v], rest)
      else if e = space then
        match items rest with
        | some (vs, rest') => some (v :: vs, rest')
        | none => none
      else none
  | _ => none

/-- A payload after its `[`, closed by `]` (R99). -/
def payload (bs : List Byte) : Option (List Byte × List Byte) :=
  match bs with
  | [] => none
  | b :: rest => if b = closeBracket then some ([], rest) else items (b :: rest)

/-- A payload after its `[` and the line feed that ends the operation. -/
def payloadLine (bs : List Byte) : Option (List Byte × List Byte) :=
  match payload bs with
  | some (p, e :: rest) => if e = lineFeed then some (p, rest) else none
  | _ => none

/-- `t, [p]` and the line feed that ends the operation. -/
def typedLine (bs : List Byte) : Option (Byte × List Byte × List Byte) :=
  match bs with
  | c :: d :: rest =>
    match unhexByte c d, strip kwComma rest with
    | some t, some rest' =>
      match payloadLine rest' with
      | some (p, rest'') => some (t, p, rest'')
      | none => none
    | _, _ => none
  | _ => none

/-- R98, R194: a level 1 to 5 as one decimal digit, and the line feed that ends the operation. -/
def levelLine (bs : List Byte) : Option (Byte × List Byte) :=
  match bs with
  | c :: e :: rest =>
    if 49 ≤ c.toNat ∧ c.toNat ≤ 53 ∧ e = lineFeed then some (BitVec.ofNat 8 (c.toNat - 48), rest) else none
  | _ => none

/-- The operands of an operation whose name has been read. -/
def operand {α : Type} (r : Option α) : Except DecodeError α :=
  match r with
  | some a => .ok a
  | none => .error .badOperand

/-- A host operation or pseudo-operation, by name (R99, R100). -/
def text (bs : List Byte) : Except DecodeError (Instr × List Byte) :=
  match strip kwEncode bs with
  | some rest => (operand (typedLine rest)).map fun r => (.encode r.1 r.2.1, r.2.2)
  | none =>
  match strip kwExchange bs with
  | some rest => (operand (typedLine rest)).map fun r => (.exchange r.1 r.2.1, r.2.2)
  | none =>
  match strip kwCmd bs with
  | some rest => (operand (payloadLine rest)).map fun r => (.cmd r.1, r.2)
  | none =>
  match strip kwData bs with
  | some rest => (operand (payloadLine rest)).map fun r => (.data r.1, r.2)
  | none =>
  match strip kwEnd bs with
  | some rest => (operand (payloadLine rest)).map fun r => (.endData r.1, r.2)
  | none =>
  match strip kwSetSecurity bs with
  | some rest => (operand (levelLine rest)).map fun r => (.setSecurity r.1, r.2)
  | none =>
  match strip kwDecode bs with
  | some rest => .ok (.decode, rest)
  | none =>
  match strip kwReset bs with
  | some rest => .ok (.reset, rest)
  | none =>
  match strip kwVerifyPwd bs with
  | some rest => .ok (.verifyPwd, rest)
  | none =>
  match strip kwGetImage bs with
  | some rest => .ok (.getImage, rest)
  | none =>
  match strip kwEmpty bs with
  | some rest => .ok (.empty, rest)
  | none =>
  match strip kwReadParams bs with
  | some rest => .ok (.readParams, rest)
  | none => .error .unknownOperation

/-! ## Frames (R80 to R90) -/

/-- The row `OPC.*` of an opcode (R96). -/
def opcodeInstr (o : Opcode) (f : FrameForm) : Instr :=
  match o with
  | .getImage => .opcGetImage f
  | .img2Tz => .opcImg2Tz f
  | .hsSearch => .opcHsSearch f
  | .regModel => .opcRegModel f
  | .store => .opcStore f
  | .load => .opcLoad f
  | .upload => .opcUpload f
  | .download => .opcDownload f
  | .delete => .opcDelete f
  | .empty => .opcEmpty f
  | .setParam => .opcSetParam f
  | .readParams => .opcReadParams f
  | .verifyPwd => .opcVerifyPwd f
  | .readSysinfo => .opcReadSysinfo f
  | .templateCount => .opcTemplateCount f

/-- The row `ST_*` of a status code (R97). -/
def statusInstr (c : Status) (f : FrameForm) : Instr :=
  match c with
  | .ok => .stOk f
  | .rxErr => .stRxErr f
  | .noFinger => .stNoFinger f
  | .imageFail => .stImageFail f
  | .notFound => .stNotFound f
  | .enrollMismatch => .stEnrollMismatch f

/-- The form without its first payload byte. -/
def dropFirst (f : FrameForm) : FrameForm :=
  match f with
  | .send p => .send p.tail
  | .recv addr len body => .recv addr len body.tail

/-- R90, R96, R97: the most specific row for a frame of type `t`. -/
def frameInstr (t : Byte) (f : FrameForm) : Instr :=
  if t = Config.tCmd then
    match (FrameForm.firstPayload f).bind opcodeOf with
    | some o => opcodeInstr o (dropFirst f)
    | none => .frameCmd f
  else if t = Config.tAck then
    match (FrameForm.firstPayload f).bind statusOf with
    | some c => statusInstr c (dropFirst f)
    | none => .frameAck f
  else if t = Config.tData then .frameData f
  else if t = Config.tEnd then .frameEnd f
  else .frameOther t f

/-- A frame that arrives (R92, R93, R94): on RX only the marker selects a row, and `LEN` says where the frame ends. -/
def received (bs : List Byte) : Except DecodeError (Instr × List Byte) :=
  match bs with
  | m :: n :: a0 :: a1 :: a2 :: a3 :: t :: h :: l :: rest =>
    if m ≠ Config.markerHi ∨ n ≠ Config.markerLo then .error .badMarker
    else if rest.length < bodyLength (be16 h l) then .error .truncated
    else
      .ok (frameInstr t (.recv ⟨a0, a1, a2, a3⟩ (be16 h l) (rest.take (bodyLength (be16 h l)))),
        rest.drop (bodyLength (be16 h l)))
  | _ => .error .truncated

/-- A frame handed to the TX framer (R90: on TX the pattern is exact in `START`, `ADDR` and `PTYPE`). -/
def sent (bs : List Byte) : Except DecodeError (Instr × List Byte) :=
  match bs with
  | m :: n :: a0 :: a1 :: a2 :: a3 :: t :: h :: l :: rest =>
    if m ≠ Config.markerHi ∨ n ≠ Config.markerLo then .error .badMarker
    else if ¬(a0 = Config.addrByte ∧ a1 = Config.addrByte ∧ a2 = Config.addrByte ∧ a3 = Config.addrByte) then
      .error .badAddress
    else if (be16 h l).toNat < Config.lenBias then .error .badLength
    else
      match (rest.drop ((be16 h l).toNat - Config.lenBias)) with
      | ch :: cl :: rest' =>
        if be16 ch cl = chk t (rest.take ((be16 h l).toNat - Config.lenBias)) then
          .ok (frameInstr t (.send (rest.take ((be16 h l).toNat - Config.lenBias))), rest')
        else .error .badChecksum
      | _ => .error .truncated
  | _ => .error .truncated

end Decode

/-- The decoder: the instruction at the head of `bs` and the bytes behind it, or why there is none. -/
def decode (bs : List Byte) : Except DecodeError (Instr × List Byte) :=
  match bs with
  | [] => .error .nothing
  | b :: rest =>
    if b = Decode.arrives then Decode.received rest
    else if b = Decode.handedOver then Decode.sent rest
    else Decode.text (b :: rest)

/-! ## The encoder -/

namespace Encode

open Machine Decode

/-- R99: the bytes of a payload, separated by single spaces, and the closing bracket. -/
def itemsText (p : List Byte) : List Byte :=
  match p with
  | [] => [closeBracket]
  | [b] => hexByte b ++ [closeBracket]
  | b :: c :: bs => hexByte b ++ space :: itemsText (c :: bs)

/-- R99: a payload after its `[`, and the line feed. -/
def payloadText (p : List Byte) : List Byte := itemsText p ++ [lineFeed]

/-- R99: `t, [p]` and the line feed. -/
def typedText (t : Byte) (p : List Byte) : List Byte := hexByte t ++ kwComma ++ payloadText p

/-- R58, R121: a frame of type `t`, with the byte that says which way it goes. -/
def frameForm (t : Byte) (f : FrameForm) : List Byte :=
  match f with
  | .send p => handedOver :: frame t p
  | .recv addr len body => arrives :: image t addr len body

/-- The bytes of a command frame with opcode `o` (R96). -/
def opcodeForm (o : Opcode) (f : FrameForm) : List Byte :=
  frameForm Config.tCmd (FrameForm.cons (opcodeByte o) f)

/-- The bytes of an acknowledgement frame with status `c` (R97). -/
def statusForm (c : Status) (f : FrameForm) : List Byte :=
  frameForm Config.tAck (FrameForm.cons (statusByte c) f)

end Encode

open Machine Decode Encode in
/-- The instruction word of an instruction. -/
def encode (i : Instr) : List Byte :=
  match i with
  | .encode t p => kwEncode ++ typedText t p
  | .decode => kwDecode
  | .reset => kwReset
  | .exchange t p => kwExchange ++ typedText t p
  | .cmd p => kwCmd ++ payloadText p
  | .data p => kwData ++ payloadText p
  | .endData p => kwEnd ++ payloadText p
  | .verifyPwd => kwVerifyPwd
  | .getImage => kwGetImage
  | .empty => kwEmpty
  | .readParams => kwReadParams
  | .setSecurity n => kwSetSecurity ++ [BitVec.ofNat 8 (48 + n.toNat), lineFeed]
  | .frameCmd f => frameForm Config.tCmd f
  | .frameData f => frameForm Config.tData f
  | .frameAck f => frameForm Config.tAck f
  | .frameEnd f => frameForm Config.tEnd f
  | .frameOther t f => frameForm t f
  | .opcGetImage f => opcodeForm .getImage f
  | .opcImg2Tz f => opcodeForm .img2Tz f
  | .opcHsSearch f => opcodeForm .hsSearch f
  | .opcRegModel f => opcodeForm .regModel f
  | .opcStore f => opcodeForm .store f
  | .opcLoad f => opcodeForm .load f
  | .opcUpload f => opcodeForm .upload f
  | .opcDownload f => opcodeForm .download f
  | .opcDelete f => opcodeForm .delete f
  | .opcEmpty f => opcodeForm .empty f
  | .opcSetParam f => opcodeForm .setParam f
  | .opcReadParams f => opcodeForm .readParams f
  | .opcVerifyPwd f => opcodeForm .verifyPwd f
  | .opcReadSysinfo f => opcodeForm .readSysinfo f
  | .opcTemplateCount f => opcodeForm .templateCount f
  | .stOk f => statusForm .ok f
  | .stRxErr f => statusForm .rxErr f
  | .stNoFinger f => statusForm .noFinger f
  | .stImageFail f => statusForm .imageFail f
  | .stNotFound f => statusForm .notFound f
  | .stEnrollMismatch f => statusForm .enrollMismatch f

/-! ## The words of spec/opcode_table.json (log entry 11) -/

namespace Decode

open Machine

/-- The `n` bytes of a number, the first the least significant. -/
def bytesOf (n w : Nat) : List Byte :=
  match n with
  | 0 => []
  | n + 1 => BitVec.ofNat 8 w :: bytesOf n (w / 256)

/-- Nine header bytes as the arriving frame they open, every byte behind the header 0. -/
def headerWord (hs : List Byte) : List Byte :=
  match hs with
  | [_, _, _, _, _, _, _, h, l] => arrives :: hs ++ List.replicate (bodyLength (be16 h l)) 0x00
  | _ => arrives :: hs

/-- The one payload byte a row of the opcode or status table gives, as the arriving frame of R96 or R97 it stands
in: an acknowledgement where the byte is a listed status and no listed opcode, else a command; checksum bytes 0. -/
def payloadWord (b : Byte) : List Byte :=
  if (opcodeOf b).isNone ∧ (statusOf b).isSome then
    arrives :: image Config.tAck ⟨0xFF, 0xFF, 0xFF, 0xFF⟩ 0x0003 [b, 0x00, 0x00]
  else arrives :: image Config.tCmd ⟨0xFF, 0xFF, 0xFF, 0xFF⟩ 0x0003 [b, 0x00, 0x00]

/-- The instruction word that stands for a word of the table: a header of nine bytes (the table's hex string has
index 0 leftmost; both readings of the number are taken), a payload byte, or the bytes as they are. -/
def tableWord (nbits w : Nat) : List Byte :=
  if nbits = 72 then
    match bytesOf 9 w with
    | 0xEF :: 0x01 :: rest => headerWord (0xEF :: 0x01 :: rest)
    | bs => headerWord bs.reverse
  else if nbits = 8 then payloadWord (BitVec.ofNat 8 w)
  else bytesOf (nbits / 8) w

end Decode

/-- The instruction the decoder reads from a word of the table whose bits are `w`. -/
def decodeTableWord (nbits w : Nat) : Option Instr :=
  match decode (Decode.tableWord nbits w) with
  | .ok (i, _) => some i
  | .error _ => none

end Sys2Proof
end

