-- ==== Sys2Proof/Machine/State.lean ====
section
/-! DEFINITION. The machine's state as plain data: the framer (R20: `Rx` R21 to R26, `Tx` R27 to R30), the build
parameters (R6, R32), the transport (`Line`: R34, R55 to R57, R222) and the host (`HostSide`: R180 to R195), the
reset state (R37), and why a step can stop. -/

namespace Sys2Proof.Machine

/-! ## Failures (R210, R211) -/

/-- R210: the six failure kinds. The framer raises the first four and never the last two. -/
inductive Kind where
  | badData | cantRead | notResponding | cantWrite | cantConnect | enrollMismatch
deriving DecidableEq, Repr

/-- R26, R211: the cause beside the kind; `none` for every kind but `badData`. -/
inductive Cause where
  | marker | length | checksum | none
deriving DecidableEq, Repr

/-! ## The framer -/

/-- R21: RXSTATE. -/
inductive RxState where
  | idle | hunt | head | body
deriving DecidableEq, Repr

/-- R26: what RXRES holds. -/
inductive RxRes where
  | none
  | reply (r : List Byte)
  | err (k : Kind) (c : Cause)
deriving DecidableEq, Repr

/-- R27: TXSTATE. -/
inductive TxState where
  | idle | send | flush
deriving DecidableEq, Repr

/-- R30: what TXRES holds. -/
inductive TxRes where
  | none
  | done
  | err (k : Kind) (c : Cause)
deriving DecidableEq, Repr

/-- R20: the RX deframer. -/
structure Rx where
  /-- RXSTATE (R21) -/
  state : RxState
  /-- RXBUF (R22, R36) -/
  buf : List Byte
  /-- RXCNT (R23; log entry 16) -/
  cnt : Nat
  /-- RXLEN (R24) -/
  len : Word16
  /-- RXSUM (R25) -/
  sum : Word16
  /-- RXRES (R26) -/
  res : RxRes
deriving DecidableEq, Repr

/-- R20: the TX framer. -/
structure Tx where
  /-- TXSTATE (R27) -/
  state : TxState
  /-- TXBUF (R28) -/
  buf : List Byte
  /-- TXIDX (R29; log entry 16) -/
  idx : Nat
  /-- TXRES (R30) -/
  res : TxRes
deriving DecidableEq, Repr

/-- R6, R32: the parameters, fixed when the block is built (log entry 6). -/
structure Params where
  /-- CHK_VERIFY -/
  chkVerify : Bool
  /-- MAXLEN -/
  maxLen : Word16
deriving DecidableEq, Repr

/-! ## The transport -/

/-- R55, R56, R57: which transport answers beyond the answers already fixed (log entry 2). -/
inductive LineKind where
  /-- R57: the reference transport -/
  | reference
  /-- R55, R56: the unconstrained oracle -/
  | oracle
deriving DecidableEq, Repr

/-- R34, R222: the transport. -/
structure Line where
  /-- whether `connect()` has opened it (R222, R242) -/
  isOpen : Bool
  /-- who answers beyond the schedule -/
  kind : LineKind
  /-- the answers to the coming reads that are already fixed, oldest first: LINE_IN (R57), the receive queue (R34) -/
  lineIn : List LineEvent
  /-- the answers to the coming writes and flushes that are already fixed; true is `Ok` (R56) -/
  answers : List Bool
  /-- the answers to the coming `connect()` calls that are already fixed (R222) -/
  opens : List Bool
  /-- the bytes handed over and not yet flushed (R34, R56) -/
  sendBuf : List Byte
  /-- how many of these, the oldest first, are on the line already, before any flush (R241, R247; log entry 7) -/
  early : Nat
  /-- the bytes put on the line, oldest first: LINE_OUT (R57) -/
  lineOut : List Byte
  /-- the model's own counter of free values taken (log entry 2) -/
  tick : Nat
deriving DecidableEq, Repr

/-! ## The host -/

/-- R183: the session state. -/
inductive Conn where
  | disconnected | connected
deriving DecidableEq, Repr

/-- Why an operation or a session call is refused (R9). -/
inductive OpRefusal where
  /-- R128, R159, R182: another operation is in progress -/
  | busy
  /-- R126: the payload is longer than 65533 bytes -/
  | txTooLong
  /-- R183: the session operation needs `Connected` -/
  | notConnected
  /-- R249, U1: `saveModel` with a template that is not 512 bytes -/
  | templateLength
  /-- R194: the security level is not 1 to 5 -/
  | securityLevel
deriving DecidableEq, Repr

/-- The outcome of a pseudo-operation or of a session operation (R181 to R194, R215). -/
inductive HostOut where
  /-- nothing since the last one was begun -/
  | none
  /-- R181: the Reply of an `EXCHANGE` -/
  | reply (r : List Byte)
  /-- R181: a failure of the framer, handed on -/
  | failed (k : Kind) (c : Cause)
  /-- R184, R215: `CantConnect`, with the received bytes -/
  | cantConnect (received : List Byte)
  /-- R185, R215: the host's own `BadData`, with the raw reply bytes -/
  | badReply (r : List Byte)
  /-- R188, R215: `EnrollMismatch` -/
  | enrollMismatch
  /-- a void operation succeeded -/
  | done
  /-- R186: the result of `hasFingerprint` -/
  | present (b : Bool)
  /-- R187: the position found; the confidence is observational (U16) -/
  | position (id confidence : Word16)
  /-- R187: "no match", not an error -/
  | noMatch
  /-- R188: "no finger", not an error -/
  | noFinger
  /-- R188, R189: the uploaded template -/
  | template (bytes : List Byte)
  /-- R193: library size and security level -/
  | params (librarySize : Word16) (level : Byte)
  /-- a further request of a session operation was refused (R126, R128) and the operation ended (DESIGN CHOICE, log entry
  26) -/
  | refused (why : OpRefusal)
deriving DecidableEq, Repr

/-- What the host means to do with the outcome of the exchange it is in (R181, R184 to R194). Bytes the spec does
not give (N9) are operands (log entry 14). -/
inductive Goal where
  /-- R181, R100: hand the outcome on -/
  | exchange
  /-- R184: the handshake of `connect` -/
  | handshake
  /-- R185, R191, R192, R194: a void operation -/
  | ack
  /-- R193 -/
  | params
  /-- R186: the first exchange of `hasFingerprint` -/
  | hasImage
  /-- R186: the second exchange of `hasFingerprint` -/
  | hasConvert
  /-- R187 -/
  | search
  /-- R188: get-image -/
  | modelImage (regArgs upArgs : List Byte)
  /-- R188: image-to-template, slot 2 -/
  | modelConvert (regArgs upArgs : List Byte)
  /-- R188: register-model -/
  | modelRegister (upArgs : List Byte)
  /-- R188: upload -/
  | modelUpload
  /-- R189: the upload data phase, with the bytes collected so far -/
  | modelData (out : List Byte)
  /-- R190: download, with the template and the position -/
  | saveDownload (tmpl : List Byte) (pos : Word16)
  /-- R190: the data phase, with the bytes of the template not yet sent -/
  | saveData (rest : List Byte) (pos : Word16)
deriving DecidableEq, Repr

/-- What the host waits for. -/
inductive Task where
  /-- for nothing -/
  | none
  /-- for the end of the `ENCODE` it issued for this goal -/
  | sending (g : Goal)
  /-- for the end of the `DECODE` it issued for this goal -/
  | receiving (g : Goal)
deriving DecidableEq, Repr

/-- R184 to R195: the session operations an application can call. -/
inductive Call where
  | connect
  | hasFingerprint
  | searchFingerprint (args : List Byte)
  | createModel (regArgs upArgs : List Byte)
  | saveModel (tmpl : List Byte) (pos : Word16) (downArgs : List Byte)
  | saveStoredModel (pos : Word16)
  | clearAllSaved
  | readParameters
  | setSecurityLevel (level : Byte)
  | close
deriving DecidableEq, Repr

/-- A session call the application makes, and the operations the host issues once the call has begun and before the next
one: so operations stand before, between and behind the session calls in any order (R182, R197, log entry 1). -/
structure SessionCall where
  call : Call
  /-- instruction words one after another -/
  thenOps : List Byte
deriving DecidableEq, Repr

/-- The host: the Sensor Session (R2, R180). -/
structure HostSide where
  /-- R183 -/
  conn : Conn
  /-- the operations still to be issued before the next session call, as instruction words one after another (R180,
  R255) -/
  ops : List Byte
  /-- when the coming operations are issued: an entry `some k`, after `k` more steps, busy or not; `none`, or no
  entry, when the framer is not BUSY (log entry 1) -/
  delays : List (Option Nat)
  /-- the session calls still to be begun, each with the operations that come behind it -/
  calls : List SessionCall
  /-- what the host waits for -/
  task : Task
  /-- the last outcome -/
  out : HostOut
  /-- R9: the refusal recorded for the last operation issued (log entry 5) -/
  refusal : Option OpRefusal
deriving DecidableEq, Repr

/-! ## The whole state -/

structure State where
  par : Params
  rx : Rx
  tx : Tx
  line : Line
  host : HostSide
deriving DecidableEq, Repr

/-- Why the machine stops with a fault. Both are safe: no run from reset reaches them (R35), and the spec asks for
a fault there, never a value (R36, U19). -/
inductive Fault where
  /-- the header check, the completion or the Reply build reads RXBUF at or beyond what was written (R36) -/
  | rxUnwritten
  /-- the TX step reads TXBUF at or beyond its end (R29: `TXIDX < |TXBUF|` in SEND) -/
  | txUnwritten
deriving DecidableEq, Repr

/-- Why the machine refuses. -/
inductive Refusal where
  /-- exec, for an instruction that has no meaning yet; none is left; safe -/
  | notModelled (mnemonic : String)
  /-- the step, where the bytes at the head of the host's operations are no instruction word: the host can issue
  nothing but an operation (R180); safe -/
  | noOperation (why : DecodeError)
deriving DecidableEq, Repr

/-! ## Reset (R37, R240) -/

/-- R37: the RX half with outcome `res`, everything else at its reset value (R38, R151, R154). -/
def Rx.idleWith (res : RxRes) : Rx :=
  { state := .idle, buf := [], cnt := 0, len := 0, sum := 0, res := res }

/-- R37: the TX half with outcome `res`, everything else at its reset value (R38, R124, R125). -/
def Tx.idleWith (res : TxRes) : Tx :=
  { state := .idle, buf := [], idx := 0, res := res }

/-- R37: the machine right after power-on. The framer and the session state as R37 says; the parameters at the values
of R6; the transport not yet opened (R242, log entry 4) and otherwise the oracle with nothing fixed (log entry 3);
the host with nothing to do. -/
def State.reset : State where
  par := { chkVerify := true, maxLen := 65535 }
  rx := Rx.idleWith .none
  tx := Tx.idleWith .none
  line :=
    { isOpen := false, kind := .oracle, lineIn := [], answers := [], opens := [], sendBuf := [], early := 0,
      lineOut := [], tick := 0 }
  host :=
    { conn := .disconnected, ops := [], delays := [], calls := [], task := .none, out := .none, refusal := none }

end Sys2Proof.Machine
end

