-- ==== Sys2Proof/Machine/Flags.lean ====
section
/-! DEFINITION. The predicates of R31. The block has no flags; these are read from the state. -/

namespace Sys2Proof.Machine

/-- R31: `RX_BUSY` is `RXSTATE ≠ IDLE`. -/
def State.rxBusy (s : State) : Bool := decide (s.rx.state ≠ .idle)

/-- R31: `RX_SYNC` is `RXSTATE ∈ {HEAD, BODY}`. -/
def State.rxSync (s : State) : Bool := decide (s.rx.state = .head ∨ s.rx.state = .body)

/-- R31: `RX_OK` is `RXRES = Reply(_)`. -/
def State.rxOk (s : State) : Bool :=
  match s.rx.res with
  | .reply _ => true
  | .none => false
  | .err _ _ => false

/-- R31: `RX_ERR` is `RXRES = Err(_, _)`. -/
def State.rxErr (s : State) : Bool :=
  match s.rx.res with
  | .err _ _ => true
  | .none => false
  | .reply _ => false

/-- R31: `TX_BUSY` is `TXSTATE ≠ IDLE`. -/
def State.txBusy (s : State) : Bool := decide (s.tx.state ≠ .idle)

/-- R31: `TX_OK` is `TXRES = Done`. -/
def State.txOk (s : State) : Bool :=
  match s.tx.res with
  | .done => true
  | .none => false
  | .err _ _ => false

/-- R31: `TX_ERR` is `TXRES = Err(_, _)`. -/
def State.txErr (s : State) : Bool :=
  match s.tx.res with
  | .err _ _ => true
  | .none => false
  | .done => false

/-- R31: `BUSY` is `RX_BUSY or TX_BUSY`. -/
def State.busy (s : State) : Bool := s.rxBusy || s.txBusy

/-- Whether the host waits for something inside a pseudo-operation or session operation. -/
def State.waiting (s : State) : Bool := decide (s.host.task ≠ .none)

end Sys2Proof.Machine
end

