-- ==== Sys2Proof/Machine/Transport.lean ====
section
/-! DEFINITION. The transport primitives `TransportRead`, `TransportWrite`, `TransportFlush` (R55, R56, R57), and
`connect`, `disconnect` of the collaborator (R222). An answer is the next one of the schedule; past the schedule the
reference transport answers reads, writes and flushes as R57 says (`connect`: log entry 24), the oracle with a free value
(log entry 2). A transport that is not open answers every read and write with `Error` (R183, R242). -/

namespace Sys2Proof.Machine

/-- R55, U12: after a read that answered `Error` "what happened to the queue is unspecified": the oracle has removed a
free number of the oldest entries (log entry 19). The reference transport has removed nothing (R57). -/
def Line.readFailed (l : Line) : Line :=
  match l.kind with
  | .reference => l
  | .oracle => { l with lineIn := l.lineIn.drop (Config.removed l.tick), tick := l.tick + 1 }

/-- R55: one `TransportRead()`: its answer, and the transport after it. A read that returns a byte removes it. -/
def Line.read (l : Line) : LineEvent × Line :=
  match l.isOpen, l.lineIn, l.kind with
  | false, _, _ => (.error, l.readFailed)
  | true, .error :: es, _ => (.error, { l with lineIn := es }.readFailed)
  | true, e :: es, _ => (e, { l with lineIn := es })
  | true, [], .reference => (.timeout, l)
  | true, [], .oracle => (Config.lineEvent l.tick, { l with tick := l.tick + 1 })

/-- R56: the answer to the next write or flush, and the transport after giving it. -/
def Line.answer (l : Line) : Bool × Line :=
  match l.isOpen, l.kind, l.answers with
  | false, _, _ => (false, l)
  | true, .reference, _ => (true, l)
  | true, .oracle, a :: as => (a, { l with answers := as })
  | true, .oracle, [] => (Config.writeOk l.tick, { l with tick := l.tick + 1 })

/-- R241, R247: bytes of the send buffer that go on the line before any flush: up to the `n`-th of it, in order. They stay
among the bytes "not yet flushed" (R34), counted by `early`. -/
def Line.runAhead (l : Line) (n : Nat) : Line :=
  { l with
    lineOut := l.lineOut ++ (l.sendBuf.take n).drop l.early
    early := max l.early (min n l.sendBuf.length) }

/-- R56, R125: after an `Error`, some prefix of the bytes not yet flushed reaches the line, which one is free; the
rest does not. "Whether the 6th went out is open" (V-TX24): the byte of the failing write is among them (log
entry 7). -/
def Line.lose (l : Line) (pending : List Byte) : Line :=
  { l with
    lineOut := l.lineOut ++ (pending.take (Config.reached l.tick)).drop l.early
    sendBuf := []
    early := 0
    tick := l.tick + 1 }

/-- R56, R57: one `TransportWrite(b)`: whether it answers `Ok`, and the transport after it. After `Ok` of the oracle the
byte is in the send buffer behind every byte written earlier, and a free number of these is on the line already: a
`RESET` in SEND, too, may leave any prefix there (R241, R247, log entry 7). -/
def Line.write (l : Line) (b : Byte) : Bool × Line :=
  match l.answer with
  | (false, l') => (false, l'.lose (l'.sendBuf ++ [b]))
  | (true, l') =>
    match l'.kind with
    | .reference => (true, { l' with lineOut := l'.lineOut ++ [b] })
    | .oracle =>
      (true, { l' with sendBuf := l'.sendBuf ++ [b], tick := l'.tick + 1 }.runAhead (Config.early l'.tick))

/-- R56, R57, R61: one `TransportFlush()`: whether it answers `Ok`, and the transport after it. -/
def Line.flush (l : Line) : Bool × Line :=
  match l.answer with
  | (false, l') => (false, l'.lose l'.sendBuf)
  | (true, l') => (true, { l' with lineOut := l'.lineOut ++ l'.sendBuf.drop l'.early, sendBuf := [], early := 0 })

/-- R50, R59, R64: bytes arrive behind those already waiting. DESIGN CHOICE (log entry 24): also while the transport is
closed, to be read after a later `connect()`. -/
def Line.deliver (l : Line) (bs : List Byte) : Line :=
  { l with lineIn := l.lineIn ++ bs.map LineEvent.byte }

/-- R222, R184: `connect()` of the transport: whether it succeeds, and the transport after it. DESIGN CHOICE (log entry
24): past the schedule the reference transport answers true, and a `connect()` that fails leaves a transport that is open
already open. -/
def Line.connect (l : Line) : Bool × Line :=
  match l.opens, l.kind with
  | a :: as, _ => (a, { l with isOpen := a || l.isOpen, opens := as })
  | [], .reference => (true, { l with isOpen := true })
  | [], .oracle =>
    (Config.opensOk l.tick, { l with isOpen := Config.opensOk l.tick || l.isOpen, tick := l.tick + 1 })

/-- R222: `isConnected()` of the transport. -/
def Line.isConnected (l : Line) : Bool := l.isOpen

/-- R222, R195: `disconnect()` of the transport. DESIGN CHOICE (log entry 24): a `disconnect()` that errs during
teardown, an error R195 swallows, leaves the transport closed as any other does; and the bytes in the send buffer and in
the receive queue stay, over a later `connect()` too. -/
def Line.disconnect (l : Line) : Line := { l with isOpen := false }

end Sys2Proof.Machine
end

