-- ==== Sys2Proof/Machine/Ops.lean ====
section
/-! DEFINITION. The shared operations over the state: a refusal (R9), a failure's entry (R218: R154 on RX, R125 on TX),
issuing `ENCODE` (R120), `DECODE` (R140) and `RESET` (R240), a frame's arrival (R64), and the beginning of an exchange
(R181). There is no return from a failure (R219): the outcome register keeps it until the next operation of the same
half is issued, which clears it (`State.loadFrame`, `State.startHunt`), or until `RESET`. -/

namespace Sys2Proof.Machine

/-- The answer of a meaning or a step. -/
abbrev Result := Host.Outcome State Fault Refusal

/-- The state with another RX half. -/
def State.setRx (s : State) (r : Rx) : State := { s with rx := r }
/-- The state with another TX half. -/
def State.setTx (s : State) (t : Tx) : State := { s with tx := t }
/-- The state with another transport. -/
def State.setLine (s : State) (l : Line) : State := { s with line := l }
/-- The state with another host. -/
def State.setHost (s : State) (h : HostSide) : State := { s with host := h }

/-- R9: `refuse(why)`: the state is unchanged, and the refusal is recorded (log entry 5). -/
def State.refuse (s : State) (why : OpRefusal) : State :=
  s.setHost { s.host with refusal := some why }

/-- R154, R218: `raise K(c)` in the RX deframer. -/
def State.raiseRx (s : State) (k : Kind) (c : Cause) : State := s.setRx (Rx.idleWith (.err k c))

/-- R125, R218: `raise CantWrite(NONE)` in the TX framer. -/
def State.raiseTx (s : State) : State := s.setTx (Tx.idleWith (.err .cantWrite .none))

/-- Issuing an operation ends what the host was waiting for, and no refusal is recorded (log entry 12). -/
def State.accept (s : State) : State := s.setHost { s.host with task := .none, refusal := none }

/-- R120: the state after an accepted `ENCODE t, p`. -/
def State.loadFrame (s : State) (t : Byte) (p : List Byte) : State :=
  s.accept.setTx { state := .send, buf := frame t p, idx := 0, res := .none }

/-- R140: the state after an accepted `DECODE`. -/
def State.startHunt (s : State) : State :=
  s.accept.setRx { state := .hunt, buf := [], cnt := 0, len := 0, sum := 0, res := .none }

/-- R120, R217 item 5: why `ENCODE` with payload `p` is refused, if it is; `Busy` is tested first. -/
def State.encodeRefusal (s : State) (p : List Byte) : Option OpRefusal :=
  if s.busy then some .busy
  else if p.length > Config.maxPayload then some .txTooLong
  else none

/-- R120: `ENCODE t, p`, issue. -/
def State.issueEncode (s : State) (t : Byte) (p : List Byte) : State :=
  match s.encodeRefusal p with
  | some why => s.refuse why
  | none => s.loadFrame t p

/-- R140, R159: `DECODE`, issue. -/
def State.issueDecode (s : State) : State := if s.busy then s.refuse .busy else s.startHunt

/-- R240, R241: `RESET`. The transport and the session state stay. -/
def State.resetFramer (s : State) : State :=
  (s.accept.setRx (Rx.idleWith .none)).setTx (Tx.idleWith .none)

/-- R181: the first half of an exchange for the goal `g`: the request's `ENCODE`, after which the host waits. A
refused request begins nothing and leaves the last outcome (DESIGN CHOICE, log entry 26). -/
def State.beginExchange (s : State) (g : Goal) (t : Byte) (p : List Byte) : State :=
  match s.encodeRefusal p with
  | some why => s.refuse why
  | none =>
    (s.loadFrame t p).setHost { (s.loadFrame t p).host with task := .sending g, out := .none }

/-- R50, R64, R121: a frame instruction of type `t`: handed to the TX framer, or put on the line-in stream. -/
def State.handleFrame (s : State) (t : Byte) (f : FrameForm) : State :=
  match f with
  | .send p => s.issueEncode t p
  | .recv addr len body => s.setLine (s.line.deliver (image t addr len body))

end Sys2Proof.Machine
end

