-- ==== Sys2Proof/Machine/Frames.lean ====
section
/-! DEFINITION. The meanings of the frame kinds (R90). The framer gives all tags the same semantics (R90, R91, R127):
handed to TX, the frame is built and sent (R121); on the line, it is received by a `DECODE` (R157). -/

namespace Sys2Proof.Machine

/-- R90 `FRAME.CMD`. -/
def execFrameCmd (f : FrameForm) (s : State) : Result := .next (s.handleFrame Config.tCmd f)

/-- R90 `FRAME.DATA`. -/
def execFrameData (f : FrameForm) (s : State) : Result := .next (s.handleFrame Config.tData f)

/-- R90 `FRAME.ACK`. -/
def execFrameAck (f : FrameForm) (s : State) : Result := .next (s.handleFrame Config.tAck f)

/-- R90 `FRAME.END`. -/
def execFrameEnd (f : FrameForm) (s : State) : Result := .next (s.handleFrame Config.tEnd f)

/-- R90, R91 `FRAME.OTHER`: the framer does not check the tag. -/
def execFrameOther (t : Byte) (f : FrameForm) (s : State) : Result := .next (s.handleFrame t f)

end Sys2Proof.Machine
end

