-- ==== Sys2Proof/Machine/HostOps.lean ====
section
/-! DEFINITION. The meanings of the host operations `ENCODE`, `DECODE`, `RESET` (R180). Each issues its operation; the
framer then takes the steps of Machine/TxFramer.lean and Machine/RxDeframer.lean. -/

namespace Sys2Proof.Machine

/-- R120 `ENCODE t, p`. -/
def execEncode (t : Byte) (p : List Byte) (s : State) : Result := .next (s.issueEncode t p)

/-- R140 `DECODE`. -/
def execDecode (s : State) : Result := .next s.issueDecode

/-- R240 `RESET`, in any state. -/
def execReset (s : State) : Result := .next s.resetFramer

end Sys2Proof.Machine
end

