-- ==== Sys2Proof/Machine/Opcodes.lean ====
section
/-! DEFINITION. The meanings of the command opcode rows (R96): a command frame whose first payload byte is the opcode
and whose further bytes are the operand's. The framer never looks at the opcode. -/

namespace Sys2Proof.Machine

/-- R96 `OPC.GET_IMAGE`, 01. -/
def execOpcGetImage (f : FrameForm) (s : State) : Result :=
  .next (s.handleFrame Config.tCmd (f.cons (opcodeByte .getImage)))

/-- R96 `OPC.IMG2TZ`, 02. -/
def execOpcImg2Tz (f : FrameForm) (s : State) : Result :=
  .next (s.handleFrame Config.tCmd (f.cons (opcodeByte .img2Tz)))

/-- R96 `OPC.HS_SEARCH`, 04. -/
def execOpcHsSearch (f : FrameForm) (s : State) : Result :=
  .next (s.handleFrame Config.tCmd (f.cons (opcodeByte .hsSearch)))

/-- R96 `OPC.REG_MODEL`, 05. -/
def execOpcRegModel (f : FrameForm) (s : State) : Result :=
  .next (s.handleFrame Config.tCmd (f.cons (opcodeByte .regModel)))

/-- R96 `OPC.STORE`, 06. -/
def execOpcStore (f : FrameForm) (s : State) : Result :=
  .next (s.handleFrame Config.tCmd (f.cons (opcodeByte .store)))

/-- R96 `OPC.LOAD`, 07. -/
def execOpcLoad (f : FrameForm) (s : State) : Result :=
  .next (s.handleFrame Config.tCmd (f.cons (opcodeByte .load)))

/-- R96 `OPC.UPLOAD`, 08. -/
def execOpcUpload (f : FrameForm) (s : State) : Result :=
  .next (s.handleFrame Config.tCmd (f.cons (opcodeByte .upload)))

/-- R96 `OPC.DOWNLOAD`, 09. -/
def execOpcDownload (f : FrameForm) (s : State) : Result :=
  .next (s.handleFrame Config.tCmd (f.cons (opcodeByte .download)))

/-- R96 `OPC.DELETE`, 0C. -/
def execOpcDelete (f : FrameForm) (s : State) : Result :=
  .next (s.handleFrame Config.tCmd (f.cons (opcodeByte .delete)))

/-- R96 `OPC.EMPTY`, 0D. -/
def execOpcEmpty (f : FrameForm) (s : State) : Result :=
  .next (s.handleFrame Config.tCmd (f.cons (opcodeByte .empty)))

/-- R96 `OPC.SET_PARAM`, 0E. -/
def execOpcSetParam (f : FrameForm) (s : State) : Result :=
  .next (s.handleFrame Config.tCmd (f.cons (opcodeByte .setParam)))

/-- R96 `OPC.READ_PARAMS`, 0F. -/
def execOpcReadParams (f : FrameForm) (s : State) : Result :=
  .next (s.handleFrame Config.tCmd (f.cons (opcodeByte .readParams)))

/-- R96 `OPC.VERIFY_PWD`, 13. -/
def execOpcVerifyPwd (f : FrameForm) (s : State) : Result :=
  .next (s.handleFrame Config.tCmd (f.cons (opcodeByte .verifyPwd)))

/-- R96 `OPC.READ_SYSINFO`, 16. -/
def execOpcReadSysinfo (f : FrameForm) (s : State) : Result :=
  .next (s.handleFrame Config.tCmd (f.cons (opcodeByte .readSysinfo)))

/-- R96 `OPC.TEMPLATE_COUNT`, 1D. -/
def execOpcTemplateCount (f : FrameForm) (s : State) : Result :=
  .next (s.handleFrame Config.tCmd (f.cons (opcodeByte .templateCount)))

end Sys2Proof.Machine
end

