-- ==== Sys2Proof/Machine/Pseudo.lean ====
section
/-! DEFINITION. The meanings of the pseudo-operations (R100): each is its expansion and adds no semantics. `CMD`, `DATA`
and `END` are an `ENCODE`. The others are an `EXCHANGE` (R181): their request's `ENCODE` is issued here, the host goes on
with `DECODE` when it is `Done`, and the outcome is that of the framer, `RXRES` or the failure (Machine/Session.lean). What
a session operation makes of it (R184 to R194) is none of theirs (log entry 20). -/

namespace Sys2Proof.Machine

/-- R181 `EXCHANGE t, [p]`. -/
def execExchange (t : Byte) (p : List Byte) (s : State) : Result := .next (s.beginExchange .exchange t p)

/-- R100 `CMD [p]` is `ENCODE 01, [p]`. -/
def execCmd (p : List Byte) (s : State) : Result := .next (s.issueEncode Config.tCmd p)

/-- R100 `DATA [p]` is `ENCODE 02, [p]`. -/
def execData (p : List Byte) (s : State) : Result := .next (s.issueEncode Config.tData p)

/-- R100 `END [p]` is `ENCODE 08, [p]`. -/
def execEndData (p : List Byte) (s : State) : Result := .next (s.issueEncode Config.tEnd p)

/-- R100 `VERIFY_PWD` is `EXCHANGE 01, [13 00 00 00 00]`. -/
def execVerifyPwd (s : State) : Result := .next (s.beginExchange .exchange Config.tCmd verifyPayload)

/-- R100 `GET_IMAGE` is `EXCHANGE 01, [01]`. -/
def execGetImage (s : State) : Result := .next (s.beginExchange .exchange Config.tCmd [opcodeByte .getImage])

/-- R100 `EMPTY` is `EXCHANGE 01, [0D]`. -/
def execEmpty (s : State) : Result := .next (s.beginExchange .exchange Config.tCmd [opcodeByte .empty])

/-- R100 `READ_PARAMS` is `EXCHANGE 01, [0F]`. -/
def execReadParams (s : State) : Result := .next (s.beginExchange .exchange Config.tCmd [opcodeByte .readParams])

/-- R100, R98 `SET_SECURITY n` is `EXCHANGE 01, [0E 05 n]`. -/
def execSetSecurity (n : Byte) (s : State) : Result :=
  .next (s.beginExchange .exchange Config.tCmd (securityPayload n))

end Sys2Proof.Machine
end

