-- ==== Sys2Proof/Machine/Statuses.lean ====
section
/-! DEFINITION. The meanings of the status code rows (R97): an acknowledgement frame whose first payload byte, which is
`reply[1]`, is the status. The framer never looks at it; the host does (R185, Machine/Session.lean). -/

namespace Sys2Proof.Machine

/-- R97 `ST_OK`, 00. -/
def execStOk (f : FrameForm) (s : State) : Result :=
  .next (s.handleFrame Config.tAck (f.cons (statusByte .ok)))

/-- R97 `ST_RXERR`, 01. -/
def execStRxErr (f : FrameForm) (s : State) : Result :=
  .next (s.handleFrame Config.tAck (f.cons (statusByte .rxErr)))

/-- R97 `ST_NOFINGER`, 02. -/
def execStNoFinger (f : FrameForm) (s : State) : Result :=
  .next (s.handleFrame Config.tAck (f.cons (statusByte .noFinger)))

/-- R97 `ST_IMAGEFAIL`, 03. -/
def execStImageFail (f : FrameForm) (s : State) : Result :=
  .next (s.handleFrame Config.tAck (f.cons (statusByte .imageFail)))

/-- R97 `ST_NOTFOUND`, 09. -/
def execStNotFound (f : FrameForm) (s : State) : Result :=
  .next (s.handleFrame Config.tAck (f.cons (statusByte .notFound)))

/-- R97 `ST_ENROLLMISMATCH`, 0A. -/
def execStEnrollMismatch (f : FrameForm) (s : State) : Result :=
  .next (s.handleFrame Config.tAck (f.cons (statusByte .enrollMismatch)))

end Sys2Proof.Machine
end

