-- ==== Sys2Proof/Machine/Dispatch.lean ====
section
/-! DEFINITION. One arm for each constructor of `Instr`, each one call of that instruction's meaning. -/

namespace Sys2Proof.Machine

def exec (i : Instr) (s : State) : Host.Outcome State Fault Refusal :=
  match i with
  | .encode t p => Sys2Proof.Machine.execEncode t p s
  | .decode => Sys2Proof.Machine.execDecode s
  | .reset => Sys2Proof.Machine.execReset s
  | .exchange t p => Sys2Proof.Machine.execExchange t p s
  | .cmd p => Sys2Proof.Machine.execCmd p s
  | .data p => Sys2Proof.Machine.execData p s
  | .endData p => Sys2Proof.Machine.execEndData p s
  | .verifyPwd => Sys2Proof.Machine.execVerifyPwd s
  | .getImage => Sys2Proof.Machine.execGetImage s
  | .empty => Sys2Proof.Machine.execEmpty s
  | .readParams => Sys2Proof.Machine.execReadParams s
  | .setSecurity n => Sys2Proof.Machine.execSetSecurity n s
  | .frameCmd f => Sys2Proof.Machine.execFrameCmd f s
  | .frameData f => Sys2Proof.Machine.execFrameData f s
  | .frameAck f => Sys2Proof.Machine.execFrameAck f s
  | .frameEnd f => Sys2Proof.Machine.execFrameEnd f s
  | .frameOther t f => Sys2Proof.Machine.execFrameOther t f s
  | .opcGetImage f => Sys2Proof.Machine.execOpcGetImage f s
  | .opcImg2Tz f => Sys2Proof.Machine.execOpcImg2Tz f s
  | .opcHsSearch f => Sys2Proof.Machine.execOpcHsSearch f s
  | .opcRegModel f => Sys2Proof.Machine.execOpcRegModel f s
  | .opcStore f => Sys2Proof.Machine.execOpcStore f s
  | .opcLoad f => Sys2Proof.Machine.execOpcLoad f s
  | .opcUpload f => Sys2Proof.Machine.execOpcUpload f s
  | .opcDownload f => Sys2Proof.Machine.execOpcDownload f s
  | .opcDelete f => Sys2Proof.Machine.execOpcDelete f s
  | .opcEmpty f => Sys2Proof.Machine.execOpcEmpty f s
  | .opcSetParam f => Sys2Proof.Machine.execOpcSetParam f s
  | .opcReadParams f => Sys2Proof.Machine.execOpcReadParams f s
  | .opcVerifyPwd f => Sys2Proof.Machine.execOpcVerifyPwd f s
  | .opcReadSysinfo f => Sys2Proof.Machine.execOpcReadSysinfo f s
  | .opcTemplateCount f => Sys2Proof.Machine.execOpcTemplateCount f s
  | .stOk f => Sys2Proof.Machine.execStOk f s
  | .stRxErr f => Sys2Proof.Machine.execStRxErr f s
  | .stNoFinger f => Sys2Proof.Machine.execStNoFinger f s
  | .stImageFail f => Sys2Proof.Machine.execStImageFail f s
  | .stNotFound f => Sys2Proof.Machine.execStNotFound f s
  | .stEnrollMismatch f => Sys2Proof.Machine.execStEnrollMismatch f s

end Sys2Proof.Machine
end

