-- ==== Sys2Proof/Machine/RxDeframer.lean ====
section
/-! DEFINITION. The RX sequencer (R141 to R155, R163): one `TransportRead()` a step. The statements of a rule run in
the order written, a later one sees the earlier writes (R9). A position of RXBUF that was not written holds no value
(R36): where a rule would read one the step faults, which no reachable state does (R35). -/

namespace Sys2Proof.Machine

/-- R144, R148: "Accumulate bytes positionally". -/
def State.append (s : State) (b : Byte) : State :=
  s.setRx { s.rx with buf := s.rx.buf ++ [b], cnt := s.rx.cnt + 1 }

/-- R145, R146, R147: the header check, on the buffer including the ninth byte. Marker before length (R217). -/
def headerCheck (s : State) : Result :=
  match s.rx.buf[0]?, s.rx.buf[1]?, s.rx.buf[6]?, s.rx.buf[7]?, s.rx.buf[8]? with
  | some m, some n, some t, some h, some l =>
    if m ≠ Config.markerHi ∨ n ≠ Config.markerLo then .next (s.raiseRx .badData .marker)
    else if (be16 h l).toNat < Config.lenBias then .next (s.raiseRx .badData .length)
    else if (be16 h l).toNat > s.par.maxLen.toNat then .next (s.raiseRx .badData .length)
    else
      .next (s.setRx
        { s.rx with
          len := be16 h l
          sum := BitVec.ofNat 16 (t.toNat + h.toNat + l.toNat)
          state := .body })
  | _, _, _, _, _ => .fault .rxUnwritten

/-- R150, R151: the completion, on the buffer including the last byte: checksum validation, then the Reply. -/
def complete (s : State) : Result :=
  match s.rx.buf[7 + s.rx.len.toNat]?, s.rx.buf[8 + s.rx.len.toNat]?, s.rx.buf[6]?,
      slice? 9 (7 + s.rx.len.toNat) s.rx.buf with
  | some ch, some cl, some t, some p =>
    if s.par.chkVerify = true ∧ be16 ch cl ≠ s.rx.sum then .next (s.raiseRx .badData .checksum)
    else .next (s.setRx (Rx.idleWith (.reply (t :: p))))
  | _, _, _, _ => .fault .rxUnwritten

/-- R142, R143: a byte in HUNT. -/
def rxHunt (b : Byte) (s : State) : Result :=
  if b = Config.markerHi then
    .next (s.setRx { s.rx with buf := [Config.markerHi], cnt := 1, state := .head })
  else .next s

/-- R144: a byte in HEAD. -/
def rxHead (b : Byte) (s : State) : Result :=
  if (s.append b).rx.cnt = Config.hdr then headerCheck (s.append b) else .next (s.append b)

/-- R148: whether the byte at index `i` is a payload byte, and so is summed. -/
def State.addSum (s : State) (i : Nat) (b : Byte) : State :=
  if i < 7 + s.rx.len.toNat then s.setRx { s.rx with sum := s.rx.sum + b.zeroExtend 16 } else s

/-- R148, R149: a byte in BODY. The frame is complete at the count `9 + RXLEN`. -/
def rxBody (b : Byte) (s : State) : Result :=
  if ((s.append b).addSum s.rx.cnt b).rx.cnt = Config.hdr + s.rx.len.toNat then
    complete ((s.append b).addSum s.rx.cnt b)
  else .next ((s.append b).addSum s.rx.cnt b)

/-- R141, R163: the effect of the line event `e` on the deframer. -/
def rxEvent (e : LineEvent) (s : State) : Result :=
  match s.rx.state, e with
  | .idle, _ => .next s
  | _, .timeout => .next (s.raiseRx .notResponding .none)
  | _, .error => .next (s.raiseRx .cantRead .none)
  | .hunt, .byte b => rxHunt b s
  | .head, .byte b => rxHead b s
  | .body, .byte b => rxBody b s

/-- R141: the RX step: exactly one `TransportRead()`. In IDLE the RX deframer has no step. -/
def rxStep (s : State) : Result :=
  match s.rx.state with
  | .idle => .next s
  | .hunt => rxEvent s.line.read.1 (s.setLine s.line.read.2)
  | .head => rxEvent s.line.read.1 (s.setLine s.line.read.2)
  | .body => rxEvent s.line.read.1 (s.setLine s.line.read.2)

end Sys2Proof.Machine
end

