-- ==== Sys2Proof/Machine/Session.lean ====
section
/-! DEFINITION. The host (spec/42_host_ops.md): how an exchange goes on when an operation of the framer has ended
(R181), what each session operation makes of a Reply (R184 to R194), and how a session call begins. Where the source
is silent the log entries 12, 13, 14, 21 and 24 say what is done. -/

namespace Sys2Proof.Machine

/-! ## Reading a Reply -/

/-- R185: the status of an acknowledgement, `r[1]` where `r[0]` is the tag 07. -/
def ackStatus (r : List Byte) : Option Byte :=
  match r with
  | t :: st :: _ => if t = Config.tAck then some st else none
  | _ => none

/-- R184, R185: the expected shape, `r[0] = 0x07` and `r[1] = 0x00`. -/
def ackOk (r : List Byte) : Bool := decide (ackStatus r = some (statusByte .ok))

/-- R193, C9: library size and security level, by the indexing that is left free (log entry 18). -/
def readParamsOf (r : List Byte) : HostOut :=
  match (match Config.paramsIndexing with | .payload => r.drop 1 | .reply => r) with
  | _ :: _ :: _ :: _ :: _ :: _ :: h :: l :: _ :: level :: _ => .params (be16 h l) level
  | _ => .badReply r

/-- R187: the id and the confidence of a search that found something. -/
def positionOf (r : List Byte) : HostOut :=
  match r with
  | _ :: _ :: ih :: il :: ch :: cl :: _ => .position (be16 ih il) (be16 ch cl)
  | _ => .badReply r

/-! ## The host's moves -/

/-- The host is through with what it was doing. -/
def State.finish (s : State) (o : HostOut) : State := s.setHost { s.host with task := .none, out := o }

/-- R184, R220: the session becomes `Connected`. -/
def State.connected (s : State) : State := s.setHost { s.host with conn := .connected }

/-- A further exchange of the operation in progress. DESIGN CHOICE (log entry 26): a refused request ends the operation
with the outcome `refused`. -/
def State.goOn (s : State) (g : Goal) (t : Byte) (p : List Byte) : State :=
  match s.encodeRefusal p with
  | some why => (s.refuse why).finish (.refused why)
  | none => s.beginExchange g t p

/-- R181, R189: `DECODE`, after which the host waits for the Reply. -/
def State.awaitReply (s : State) (g : Goal) : State :=
  s.issueDecode.setHost { s.issueDecode.host with task := .receiving g }

/-- R181, R184, R189: what a failure of the framer makes of the goal. The handshake fails with `CantConnect`; the
framer delivered no bytes. -/
def failure (g : Goal) (k : Kind) (c : Cause) : HostOut :=
  match g with
  | .handshake => .cantConnect []
  | _ => .failed k c

/-- R190: the tag of the next chunk: the last one is tagged end-of-data. -/
def chunkTag (rest : List Byte) : Byte := if rest.length ≤ Config.chunk then Config.tEnd else Config.tData

/-- R190: the data phase: the next chunk, and when none is left the store command. -/
def State.sendChunk (s : State) (rest : List Byte) (pos : Word16) : State :=
  match rest with
  | [] => s.goOn .ack Config.tCmd (storePayload pos)
  | b :: bs =>
    s.goOn (.saveData ((b :: bs).drop Config.chunk) pos) (chunkTag (b :: bs)) ((b :: bs).take Config.chunk)

/-- R181, R190: the request has been sent. In the download data phase no Reply is read between the packets. -/
def afterSent (g : Goal) (s : State) : State :=
  match g with
  | .saveData rest pos => s.sendChunk rest pos
  | _ => s.awaitReply g

/-- R185: any Reply but an acknowledgement with status OK is the host's `BadData`; on OK go on as `f` says. -/
def onOk (r : List Byte) (s : State) (f : State) : State := if ackOk r then f else s.finish (.badReply r)

/-- R184 to R194: what the host makes of the Reply `r`. A handshake that fails leaves the session state and the transport
as they were (DESIGN CHOICE, log entries 21 and 24). -/
def afterReply (g : Goal) (r : List Byte) (s : State) : State :=
  match g with
  | .exchange => s.finish (.reply r)
  | .handshake => if ackOk r then s.connected.finish .done else s.finish (.cantConnect r)
  | .ack => onOk r s (s.finish .done)
  | .params => onOk r s (s.finish (readParamsOf r))
  | .hasImage =>
    if ackStatus r = some (statusByte .noFinger) then s.finish (.present false)
    else onOk r s (s.goOn .hasConvert Config.tCmd (img2TzPayload 0x01))
  | .hasConvert =>
    match ackStatus r with
    | some st => s.finish (.present (decide (st = statusByte .ok)))
    | none => s.finish (.badReply r)
  | .search =>
    if ackStatus r = some (statusByte .notFound) then s.finish .noMatch
    else onOk r s (s.finish (positionOf r))
  | .modelImage regArgs upArgs =>
    if ackStatus r = some (statusByte .noFinger) then s.finish .noFinger
    else onOk r s (s.goOn (.modelConvert regArgs upArgs) Config.tCmd (img2TzPayload 0x02))
  | .modelConvert regArgs upArgs =>
    onOk r s (s.goOn (.modelRegister upArgs) Config.tCmd (opcodeByte .regModel :: regArgs))
  | .modelRegister upArgs =>
    if ackStatus r = some (statusByte .enrollMismatch) then s.finish .enrollMismatch
    else onOk r s (s.goOn .modelUpload Config.tCmd (opcodeByte .upload :: upArgs))
  | .modelUpload => onOk r s (s.awaitReply (.modelData []))
  | .modelData out =>
    match r with
    | t :: p =>
      if t = Config.tEnd then s.finish (.template (out ++ p))
      else if t = Config.tData then s.awaitReply (.modelData (out ++ p))
      else s.finish (.badReply r)
    | [] => s.finish (.badReply r)
  | .saveDownload tmpl pos => onOk r s (s.sendChunk tmpl pos)
  | .saveData _ _ => s.finish (.reply r)

/-- The host's move when the framer is not BUSY and the host waits for something. -/
def taskStep (s : State) : State :=
  match s.host.task with
  | .none => s
  | .sending g =>
    match s.tx.res with
    | .done => afterSent g s
    | .err k c => s.finish (failure g k c)
    | .none => s.finish .none
  | .receiving g =>
    match s.rx.res with
    | .reply r => afterReply g r s
    | .err k c => s.finish (failure g k c)
    | .none => s.finish .none

/-! ## Session calls -/

/-- R184: `connect()`: open the transport, then the handshake. -/
def State.callConnect (s : State) : State :=
  match s.line.connect with
  | (false, l) => (s.setLine l).finish (.cantConnect [])
  | (true, l) => (s.setLine l).beginExchange .handshake Config.tCmd verifyPayload

/-- R195: `close()`, idempotent, in mid-operation too. It has no effect on framer state: an operation in progress gets
`Error` from the transport, unless the host issues `RESET` beside it. The host waits for it no longer (log entry 12). -/
def State.callClose (s : State) : State :=
  ((s.setLine s.line.disconnect).setHost { s.host with conn := .disconnected }).finish .done

/-- R182: one operation at a time. -/
def State.oneAtATime (s : State) (f : State) : State := if s.busy || s.waiting then s.refuse .busy else f

/-- R182, R183: all high-level operations are one at a time and require `Connected`. -/
def State.gated (s : State) (f : State) : State :=
  s.oneAtATime (if s.host.conn = .connected then f else s.refuse .notConnected)

/-- R184 to R195: a session call. -/
def startCall (c : Call) (s : State) : State :=
  match c with
  | .connect => s.oneAtATime s.callConnect
  | .close => s.callClose
  | .hasFingerprint => s.gated (s.beginExchange .hasImage Config.tCmd [opcodeByte .getImage])
  | .searchFingerprint args => s.gated (s.beginExchange .search Config.tCmd (opcodeByte .hsSearch :: args))
  | .createModel regArgs upArgs =>
    s.gated (s.beginExchange (.modelImage regArgs upArgs) Config.tCmd [opcodeByte .getImage])
  | .saveModel tmpl pos downArgs =>
    s.gated
      (if tmpl.length = Config.template then
        s.beginExchange (.saveDownload tmpl pos) Config.tCmd (opcodeByte .download :: downArgs)
      else s.refuse .templateLength)
  | .saveStoredModel pos => s.gated (s.beginExchange .ack Config.tCmd (storePayload pos))
  | .clearAllSaved => s.gated (s.beginExchange .ack Config.tCmd [opcodeByte .empty])
  | .readParameters => s.gated (s.beginExchange .params Config.tCmd [opcodeByte .readParams])
  | .setSecurityLevel level =>
    s.gated
      (if 1 ≤ level.toNat ∧ level.toNat ≤ 5 then s.beginExchange .ack Config.tCmd (securityPayload level)
      else s.refuse .securityLevel)

end Sys2Proof.Machine
end

