-- ==== Sys2Proof/Machine/TxFramer.lean ====
section
/-! DEFINITION. The TX sequencer (R123, R124, R125, R130): one transport call a step. -/

namespace Sys2Proof.Machine

/-- R123: the step in SEND. It hands `TXBUF[TXIDX]` to the transport. -/
def txStepSend (s : State) : Result :=
  match s.tx.buf[s.tx.idx]? with
  | none => .fault .txUnwritten
  | some b =>
    match s.line.write b with
    | (false, l) => .next (s.setLine l).raiseTx
    | (true, l) =>
      .next ((s.setLine l).setTx
        { s.tx with
          idx := s.tx.idx + 1
          state := if s.tx.idx + 1 < s.tx.buf.length then .send else .flush })

/-- R124: the step in FLUSH, and completion. -/
def txStepFlush (s : State) : Result :=
  match s.line.flush with
  | (false, l) => .next (s.setLine l).raiseTx
  | (true, l) => .next ((s.setLine l).setTx (Tx.idleWith .done))

/-- R130: the TX step. In IDLE the TX framer has none. -/
def txStep (s : State) : Result :=
  match s.tx.state with
  | .idle => .next s
  | .send => txStepSend s
  | .flush => txStepFlush s

end Sys2Proof.Machine
end

