-- ==== Sys2Proof/Machine/Schedule.lean ====
section
/-! DEFINITION. Who moves next (R7, R223, log entry 1), and how the host's next operation is fetched. -/

namespace Sys2Proof.Machine

/-- The next operation of the host's stream, issued. Bytes that are no operation are refused (R180). -/
def fetch (s : State) : Result :=
  match decode s.host.ops with
  | .error why => .refused (.noOperation why)
  | .ok (i, rest) => exec i (s.setHost { s.host with ops := rest })

/-- The host issues its next operation, or begins the next session call, behind which the operations of that call come
(R197), or has nothing to do (R37: then the block does nothing). -/
def hostMove (s : State) : Result :=
  match s.host.ops, s.host.calls with
  | _ :: _, _ => fetch s
  | [], c :: cs => .next (startCall c.call (s.setHost { s.host with calls := cs, ops := c.thenOps }))
  | [], [] => .next s

/-- R223: the move of whoever is at work: the TX framer, the RX deframer, the host inside an exchange. -/
def workMove (s : State) : Result :=
  if s.txBusy then txStep s
  else if s.rxBusy then rxStep s
  else .next (taskStep s)

/-- R182, R223: work goes on while there is some; else it is the host's turn. -/
def turn (s : State) : Result := if s.busy || s.waiting then workMove s else hostMove s

/-- One step. An entry `some 0` of the delays lets the host issue its next operation now, busy or not (R240: `RESET`
may be issued in any state, inside a session call too; R128, R159: another operation is then refused). -/
def oneStep (s : State) : Result :=
  match s.host.delays with
  | [] => turn s
  | some 0 :: ds => hostMove (s.setHost { s.host with delays := ds })
  | some (k + 1) :: ds => workMove (s.setHost { s.host with delays := some k :: ds })
  | none :: ds =>
    if s.busy || s.waiting then workMove s else hostMove (s.setHost { s.host with delays := ds })

end Sys2Proof.Machine
end

