-- ==== Sys2Proof/Machine/Step.lean ====
section
/-! DEFINITION. The step (R7), and where a word of the opcode table is put so that the next step runs it. -/

namespace Sys2Proof.Machine

/-- One step of the machine. -/
def step (s : State) : Host.Outcome State Fault Refusal := oneStep s

/-- The instruction word at the head of the host's operations, to be issued by the very next step (log entries 11
and 15). -/
def State.withFetchWord (s : State) (nbits w : Nat) : State :=
  s.setHost
    { s.host with ops := Decode.tableWord nbits w ++ s.host.ops, delays := some 0 :: s.host.delays }

end Sys2Proof.Machine
end

