-- ==== Sys2Proof/Machine/DecodeRun.lean ====
section
/-! DEFINITION. R157: `DecodeRun`, the outcome of one `DECODE` as one function of the line events, with the events it
leaves unread. The events are a list; past its end every read is a `Timeout`, as the reference transport has it (R57).
The machine does not use it: it is the clear definition the steps are compared with. -/

namespace Sys2Proof.Machine

/-- R157, the HUNT loop: the events behind the byte `0xEF`, or the failure and the events behind it. -/
def huntRun (es : List LineEvent) : Except (RxRes × List LineEvent) (List LineEvent) :=
  match es with
  | [] => .error (.err .notResponding .none, [])
  | .timeout :: es => .error (.err .notResponding .none, es)
  | .error :: es => .error (.err .cantRead .none, es)
  | .byte b :: es => if b = Config.markerHi then .ok es else huntRun es

/-- R157, the HEAD and BODY loops: `n` more bytes, or the failure and the events behind it. -/
def collect (n : Nat) (es : List LineEvent) : Except (RxRes × List LineEvent) (List Byte × List LineEvent) :=
  match n, es with
  | 0, es => .ok ([], es)
  | _ + 1, [] => .error (.err .notResponding .none, [])
  | _ + 1, .timeout :: es => .error (.err .notResponding .none, es)
  | _ + 1, .error :: es => .error (.err .cantRead .none, es)
  | n + 1, .byte b :: es =>
    match collect n es with
    | .error f => .error f
    | .ok (bs, es') => .ok (b :: bs, es')

/-- R157: what follows the whole body: the checksum comparison and the Reply. `tail` is `buf[9 .. 9+L)`. -/
def bodyEnd (par : Params) (t h l : Byte) (tail : List Byte) : RxRes :=
  match tail.drop (tail.length - 2) with
  | [ch, cl] =>
    if par.chkVerify = true ∧
        be16 ch cl ≠
          BitVec.ofNat 16 (t.toNat + h.toNat + l.toNat + byteSum (tail.take (tail.length - 2))) then
      .err .badData .checksum
    else .reply (t :: tail.take (tail.length - 2))
  | _ => .none

/-- R157: the header checks and the body, given the eight bytes behind the sync byte. -/
def headEnd (par : Params) (head : List Byte) (es : List LineEvent) : RxRes × List LineEvent :=
  match head with
  | [n, _, _, _, _, t, h, l] =>
    if n ≠ Config.markerLo then (.err .badData .marker, es)
    else if (be16 h l).toNat < 2 ∨ par.maxLen.toNat < (be16 h l).toNat then (.err .badData .length, es)
    else
      match collect (be16 h l).toNat es with
      | .error f => f
      | .ok (tail, es') => (bodyEnd par t h l tail, es')
  | _ => (.none, es)

/-- R157: `DecodeRun`. -/
def decodeRun (par : Params) (es : List LineEvent) : RxRes × List LineEvent :=
  match huntRun es with
  | .error f => f
  | .ok es' =>
    match collect 8 es' with
    | .error f => f
    | .ok (head, es'') => headEnd par head es''

end Sys2Proof.Machine
end

