-- ==== Sys2Proof/Machine/RunEnd.lean ====
section
/-! DEFINITION. R255: when an operation and when a run of a host program has ended, and the end state. As R255 warns,
this says nothing of what the sensor received or did, or of whether a Reply belongs to its request (R244). -/

namespace Sys2Proof.Machine

/-- R255: the `DECODE` has ended: the RX half is back in IDLE and its outcome register is not `None`. -/
def State.decodeEnded (s : State) : Prop := s.rx.state = .idle ∧ s.rx.res ≠ .none

/-- R255: the `ENCODE` has ended: the TX half is back in IDLE and its outcome register is not `None`. -/
def State.encodeEnded (s : State) : Prop := s.tx.state = .idle ∧ s.tx.res ≠ .none

/-- R255, R181: the `EXCHANGE` has ended: its `ENCODE` has, where that was `Done` its `DECODE` too, and the host has
taken the outcome. -/
def State.exchangeEnded (s : State) : Prop :=
  s.encodeEnded ∧ (s.tx.res = .done → s.decodeEnded) ∧ s.host.task = .none

/-- A frame handed to the TX framer ends as its `ENCODE` does. A frame that arrives is there at once (log entry 25). -/
def State.frameEnded (s : State) (f : FrameForm) : Prop :=
  match f with
  | .send _ => s.host.refusal = none ∧ s.encodeEnded
  | .recv _ _ _ => s.rx.state = .idle ∧ s.tx.state = .idle

/-- R255: the last issued operation `i` has ended. One that was refused has not begun and does not end; `RESET` is done
when it is issued (log entry 25). -/
def State.operationEnded (s : State) (i : Instr) : Prop :=
  match i with
  | .decode => s.host.refusal = none ∧ s.decodeEnded
  | .reset => s.rx.state = .idle ∧ s.tx.state = .idle
  | .encode _ _ | .cmd _ | .data _ | .endData _ => s.host.refusal = none ∧ s.encodeEnded
  | .exchange _ _ | .verifyPwd | .getImage | .empty | .readParams | .setSecurity _ =>
    s.host.refusal = none ∧ s.exchangeEnded
  | .frameCmd f | .frameData f | .frameAck f | .frameEnd f | .frameOther _ f => s.frameEnded f
  | .opcGetImage f | .opcImg2Tz f | .opcHsSearch f | .opcRegModel f | .opcStore f | .opcLoad f | .opcUpload f
  | .opcDownload f | .opcDelete f | .opcEmpty f | .opcSetParam f | .opcReadParams f | .opcVerifyPwd f
  | .opcReadSysinfo f | .opcTemplateCount f => s.frameEnded f
  | .stOk f | .stRxErr f | .stNoFinger f | .stImageFail f | .stNotFound f | .stEnrollMismatch f => s.frameEnded f

/-- R255: the run of the host program `prog` (a finite list of operations, each issued when not BUSY) has ended: all are
issued and the last has ended. DESIGN CHOICE (log entry 25): the run of the empty program, which has no last operation,
has ended at once, when no operation is left to issue; and the operations behind a session call are a program of their
own. -/
def State.runEnded (s : State) (prog : List Instr) : Prop :=
  s.host.ops = [] ∧ ∀ i, prog.getLast? = some i → s.operationEnded i

/-- R255: what the end state of a run is: the framer state of R20 and what the reference transport holds. -/
structure EndState where
  rx : Rx
  tx : Tx
  /-- the remainder of LINE_IN -/
  lineIn : List LineEvent
  /-- LINE_OUT -/
  lineOut : List Byte
deriving DecidableEq, Repr

/-- R255: the end state of a run that has ended in `s`. -/
def State.endState (s : State) : EndState :=
  { rx := s.rx, tx := s.tx, lineIn := s.line.lineIn, lineOut := s.line.lineOut }

end Sys2Proof.Machine
end

