-- ==== Sys2Proof/Safety.lean ====
section
/-! DEFINITION. What holds in every state of this hardware (R35, R26, R30), runs of several steps, and what a safe
run is. The statements are written in these terms. -/

namespace Sys2Proof.Machine

/-- R10, R28: `b` is `Frame(t, p)` for some `t` and some `p` of at most 65533 bytes. -/
def IsFrame (b : List Byte) : Prop := ∃ t p, p.length ≤ 65533 ∧ b = frame t p

/-- R35 items 1 to 5: the RX half. -/
structure RxInv (par : Params) (r : Rx) : Prop where
  count : r.cnt = r.buf.length
  idle : r.state = .idle → r.buf = [] ∧ r.len = 0 ∧ r.sum = 0
  hunt : r.state = .hunt → r.buf = [] ∧ r.len = 0 ∧ r.sum = 0 ∧ r.res = .none
  head : r.state = .head →
    1 ≤ r.cnt ∧ r.cnt ≤ 8 ∧ r.buf[0]? = some 0xEF ∧ r.len = 0 ∧ r.sum = 0 ∧ r.res = .none
  body : r.state = .body →
    9 ≤ r.cnt ∧ r.cnt ≤ 8 + r.len.toNat ∧ r.buf[0]? = some 0xEF ∧ r.buf[1]? = some 0x01 ∧
    (∃ h l, r.buf[7]? = some h ∧ r.buf[8]? = some l ∧ r.len = be16 h l) ∧
    2 ≤ r.len.toNat ∧ r.len.toNat ≤ par.maxLen.toNat ∧
    r.sum.toNat = byteSum ((r.buf.take (min r.cnt (7 + r.len.toNat))).drop 6) % 65536 ∧ r.res = .none

/-- R35 items 6 to 8: the TX half. -/
structure TxInv (t : Tx) : Prop where
  idle : t.state = .idle → t.buf = [] ∧ t.idx = 0
  send : t.state = .send → IsFrame t.buf ∧ t.idx < t.buf.length ∧ t.res = .none
  flush : t.state = .flush → IsFrame t.buf ∧ t.idx = t.buf.length ∧ t.res = .none

/-- R35: "In every reachable state all of the following hold." -/
structure FramerInv (s : State) : Prop where
  rx : RxInv s.par s.rx
  tx : TxInv s.tx
  /-- item 9: not both halves are busy -/
  apart : ¬(s.rx.state ≠ .idle ∧ s.tx.state ≠ .idle)

/-- R26, R30: the outcome registers hold only what these rules list. -/
structure OutcomesLegal (s : State) : Prop where
  reply : ∀ r, s.rx.res = .reply r → 1 ≤ r.length ∧ r.length ≤ 65534
  rxErr : ∀ k c, s.rx.res = .err k c →
    (k = .badData ∨ k = .cantRead ∨ k = .notResponding) ∧ (c ≠ .none ↔ k = .badData)
  txErr : ∀ k c, s.tx.res = .err k c → k = .cantWrite ∧ c = .none

/-- `n` steps, stopping at the first fault or refusal. -/
def runSteps (n : Nat) (s : State) : Result :=
  match n with
  | 0 => .next s
  | n + 1 =>
    match step s with
    | .next s' => runSteps n s'
    | .fault r => .fault r
    | .refused r => .refused r

/-- A run that never faults. -/
def Safe (s : State) : Prop := ∀ n r, runSteps n s ≠ .fault r

/-- The payload of a form that is handed to the TX framer. -/
def payloadSent (f : FrameForm) : Option (List Byte) :=
  match f with
  | .send p => some p
  | .recv _ _ _ => none

/-- The operands `t`, `p` of the `ENCODE` an instruction issues (R100, R96, R97, R90), with the numbers of the
spec's tables; none for `DECODE`, `RESET` and a frame that arrives on the line. -/
def request (i : Instr) : Option (Byte × List Byte) :=
  match i with
  | .encode t p => some (t, p)
  | .decode => none
  | .reset => none
  | .exchange t p => some (t, p)
  | .cmd p => some (0x01, p)
  | .data p => some (0x02, p)
  | .endData p => some (0x08, p)
  | .verifyPwd => some (0x01, [0x13, 0x00, 0x00, 0x00, 0x00])
  | .getImage => some (0x01, [0x01])
  | .empty => some (0x01, [0x0D])
  | .readParams => some (0x01, [0x0F])
  | .setSecurity n => some (0x01, [0x0E, 0x05, n])
  | .frameCmd f => (payloadSent f).map fun p => (0x01, p)
  | .frameData f => (payloadSent f).map fun p => (0x02, p)
  | .frameAck f => (payloadSent f).map fun p => (0x07, p)
  | .frameEnd f => (payloadSent f).map fun p => (0x08, p)
  | .frameOther t f => (payloadSent f).map fun p => (t, p)
  | .opcGetImage f => (payloadSent f).map fun p => (0x01, 0x01 :: p)
  | .opcImg2Tz f => (payloadSent f).map fun p => (0x01, 0x02 :: p)
  | .opcHsSearch f => (payloadSent f).map fun p => (0x01, 0x04 :: p)
  | .opcRegModel f => (payloadSent f).map fun p => (0x01, 0x05 :: p)
  | .opcStore f => (payloadSent f).map fun p => (0x01, 0x06 :: p)
  | .opcLoad f => (payloadSent f).map fun p => (0x01, 0x07 :: p)
  | .opcUpload f => (payloadSent f).map fun p => (0x01, 0x08 :: p)
  | .opcDownload f => (payloadSent f).map fun p => (0x01, 0x09 :: p)
  | .opcDelete f => (payloadSent f).map fun p => (0x01, 0x0C :: p)
  | .opcEmpty f => (payloadSent f).map fun p => (0x01, 0x0D :: p)
  | .opcSetParam f => (payloadSent f).map fun p => (0x01, 0x0E :: p)
  | .opcReadParams f => (payloadSent f).map fun p => (0x01, 0x0F :: p)
  | .opcVerifyPwd f => (payloadSent f).map fun p => (0x01, 0x13 :: p)
  | .opcReadSysinfo f => (payloadSent f).map fun p => (0x01, 0x16 :: p)
  | .opcTemplateCount f => (payloadSent f).map fun p => (0x01, 0x1D :: p)
  | .stOk f => (payloadSent f).map fun p => (0x07, 0x00 :: p)
  | .stRxErr f => (payloadSent f).map fun p => (0x07, 0x01 :: p)
  | .stNoFinger f => (payloadSent f).map fun p => (0x07, 0x02 :: p)
  | .stImageFail f => (payloadSent f).map fun p => (0x07, 0x03 :: p)
  | .stNotFound f => (payloadSent f).map fun p => (0x07, 0x09 :: p)
  | .stEnrollMismatch f => (payloadSent f).map fun p => (0x07, 0x0A :: p)

end Sys2Proof.Machine
end

