-- ==== Sys2Proof/WellFormed.lean ====
section
/-! DEFINITION. Which instruction terms stand for a row with operands the encoding admits. The checks: a frame handed
to TX has at most 65533 payload bytes (R10); an arriving frame's body is as long as its `LEN` says (R94); a frame row
is the most specific one for its bytes (log entry 10); the security level is 1 to 5 (R98, R194). -/

namespace Sys2Proof

open Machine in
/-- The well-formedness check of an instruction. -/
def Instr.wellFormed (i : Instr) : Bool :=
  match i with
  | .encode _ _ => true
  | .decode => true
  | .reset => true
  | .exchange _ _ => true
  | .cmd _ => true
  | .data _ => true
  | .endData _ => true
  | .verifyPwd => true
  | .getImage => true
  | .empty => true
  | .readParams => true
  | .setSecurity n => decide (1 ≤ n.toNat ∧ n.toNat ≤ 5)
  | .frameCmd f => FrameForm.sized f && ((FrameForm.firstPayload f).bind opcodeOf).isNone
  | .frameData f => FrameForm.sized f
  | .frameAck f => FrameForm.sized f && ((FrameForm.firstPayload f).bind statusOf).isNone
  | .frameEnd f => FrameForm.sized f
  | .frameOther t f =>
    FrameForm.sized f && decide (t ≠ Config.tCmd ∧ t ≠ Config.tData ∧ t ≠ Config.tAck ∧ t ≠ Config.tEnd)
  | .opcGetImage f => FrameForm.sizedAfter (opcodeByte .getImage) f
  | .opcImg2Tz f => FrameForm.sizedAfter (opcodeByte .img2Tz) f
  | .opcHsSearch f => FrameForm.sizedAfter (opcodeByte .hsSearch) f
  | .opcRegModel f => FrameForm.sizedAfter (opcodeByte .regModel) f
  | .opcStore f => FrameForm.sizedAfter (opcodeByte .store) f
  | .opcLoad f => FrameForm.sizedAfter (opcodeByte .load) f
  | .opcUpload f => FrameForm.sizedAfter (opcodeByte .upload) f
  | .opcDownload f => FrameForm.sizedAfter (opcodeByte .download) f
  | .opcDelete f => FrameForm.sizedAfter (opcodeByte .delete) f
  | .opcEmpty f => FrameForm.sizedAfter (opcodeByte .empty) f
  | .opcSetParam f => FrameForm.sizedAfter (opcodeByte .setParam) f
  | .opcReadParams f => FrameForm.sizedAfter (opcodeByte .readParams) f
  | .opcVerifyPwd f => FrameForm.sizedAfter (opcodeByte .verifyPwd) f
  | .opcReadSysinfo f => FrameForm.sizedAfter (opcodeByte .readSysinfo) f
  | .opcTemplateCount f => FrameForm.sizedAfter (opcodeByte .templateCount) f
  | .stOk f => FrameForm.sizedAfter (statusByte .ok) f
  | .stRxErr f => FrameForm.sizedAfter (statusByte .rxErr) f
  | .stNoFinger f => FrameForm.sizedAfter (statusByte .noFinger) f
  | .stImageFail f => FrameForm.sizedAfter (statusByte .imageFail) f
  | .stNotFound f => FrameForm.sizedAfter (statusByte .notFound) f
  | .stEnrollMismatch f => FrameForm.sizedAfter (statusByte .enrollMismatch) f

end Sys2Proof
end

