-- ==== Sys2Proof/Certificates/Slice0/Obligations.lean ====
section
/-! DEFINITION. The statements about the framer for the provers, from the numbered rules of spec/. `step` statements
assume `s.host.delays = []` where they are about a host that waits until the framer is not BUSY (R182); a host that
does not wait is covered by `StepRunsTheDecodedInstruction` and `BusyOrLongRequestIsRefused`. -/

open Sys2Proof Sys2Proof.Machine

/-! ## Reset and the host operations -/

/-- R37: the framer and the session state after power-on. (The transport's values are the model's, log entries 3, 4.) -/
def Obligations.PowerOnValues : Prop :=
  State.reset.rx = { state := .idle, buf := [], cnt := 0, len := 0, sum := 0, res := .none } ∧
  State.reset.tx = { state := .idle, buf := [], idx := 0, res := .none } ∧
  State.reset.host.conn = .disconnected ∧
  State.reset.par = { chkVerify := true, maxLen := 65535 }

/-- R240, R241: `RESET` in any state, busy or not; the transport, the session state and the parameters stay.
(That the host also stops waiting is the model's choice, log entry 12.) -/
def Obligations.ResetClearsBothHalvesInAnyState : Prop :=
  ∀ s : State,
    exec .reset s = .next
      { s with
        rx := { state := .idle, buf := [], cnt := 0, len := 0, sum := 0, res := .none }
        tx := { state := .idle, buf := [], idx := 0, res := .none }
        host := { s.host with task := .none, refusal := none } }

/-- R120: `ENCODE t, p`, accepted: the frame is loaded and nothing else of the framer changes. -/
def Obligations.EncodeLoadsTheFrame : Prop :=
  ∀ (s : State) (t : Byte) (p : List Byte), s.rx.state = .idle → s.tx.state = .idle → p.length ≤ 65533 →
    exec (.encode t p) s = .next
      { s with
        tx := { state := .send, buf := frame t p, idx := 0, res := .none }
        host := { s.host with task := .none, refusal := none } }

/-- R140: `DECODE`, accepted: the hunt begins with an empty buffer and nothing else of the framer changes. -/
def Obligations.DecodeStartsTheHunt : Prop :=
  ∀ s : State, s.rx.state = .idle → s.tx.state = .idle →
    exec .decode s = .next
      { s with
        rx := { state := .hunt, buf := [], cnt := 0, len := 0, sum := 0, res := .none }
        host := { s.host with task := .none, refusal := none } }

/-- R100: `CMD`, `DATA` and `END` are `ENCODE 01`, `02` and `08`. -/
def Obligations.CmdDataEndLoadTheirFrames : Prop :=
  ∀ (s : State) (p : List Byte), s.rx.state = .idle → s.tx.state = .idle → p.length ≤ 65533 →
    ∀ i t, (i, t) ∈ [(Instr.cmd p, (0x01 : Byte)), (Instr.data p, 0x02), (Instr.endData p, 0x08)] →
      exec i s = .next
        { s with
          tx := { state := .send, buf := frame t p, idx := 0, res := .none }
          host := { s.host with task := .none, refusal := none } }

/-- R100, R181: the pseudo-operations that are an exchange load their request, and the host then waits for it, as for
the `EXCHANGE` of the same bytes. -/
def Obligations.ExchangesLoadTheirRequest : Prop :=
  ∀ (s : State) (t n : Byte) (p : List Byte), s.rx.state = .idle → s.tx.state = .idle → p.length ≤ 65533 →
    ∀ i u q,
      (i, u, q) ∈
        [(Instr.exchange t p, t, p),
         (Instr.verifyPwd, (0x01 : Byte), [0x13, 0x00, 0x00, 0x00, 0x00]),
         (Instr.getImage, 0x01, [0x01]),
         (Instr.empty, 0x01, [0x0D]),
         (Instr.readParams, 0x01, [0x0F]),
         (Instr.setSecurity n, 0x01, [0x0E, 0x05, n])] →
      exec i s = .next
        { s with
          tx := { state := .send, buf := frame u q, idx := 0, res := .none }
          host := { s.host with task := .sending .exchange, out := .none, refusal := none } }

/-- R90, R91, R121: a frame kind handed to the TX framer, whatever its tag. -/
def Obligations.FrameKindsAreSent : Prop :=
  ∀ (s : State) (t : Byte) (p : List Byte), s.rx.state = .idle → s.tx.state = .idle → p.length ≤ 65533 →
    ∀ i u,
      (i, u) ∈
        [(Instr.frameCmd (.send p), (0x01 : Byte)), (Instr.frameData (.send p), 0x02),
         (Instr.frameAck (.send p), 0x07), (Instr.frameEnd (.send p), 0x08), (Instr.frameOther t (.send p), t)] →
      exec i s = .next
        { s with
          tx := { state := .send, buf := frame u p, idx := 0, res := .none }
          host := { s.host with task := .none, refusal := none } }

/-- R50, R59, R64: a frame kind that arrives: its bytes stand behind those already waiting, and nothing else
changes, busy or not. (That they arrive at a closed transport too is the model's, log entry 24.) -/
def Obligations.FrameKindsArrive : Prop :=
  ∀ (s : State) (t : Byte) (a : Addr) (len : Word16) (body : List Byte),
    ∀ i u,
      (i, u) ∈
        [(Instr.frameCmd (.recv a len body), (0x01 : Byte)), (Instr.frameData (.recv a len body), 0x02),
         (Instr.frameAck (.recv a len body), 0x07), (Instr.frameEnd (.recv a len body), 0x08),
         (Instr.frameOther t (.recv a len body), t)] →
      exec i s = .next
        { s with
          line :=
            { s.line with
              lineIn :=
                s.line.lineIn ++
                  ([0xEF, 0x01, a.a0, a.a1, a.a2, a.a3, u, hi8 len, lo8 len] ++ body).map LineEvent.byte } }

/-- R96: the opcode rows handed to the TX framer: a command frame whose first payload byte is the opcode. -/
def Obligations.OpcodeRowsAreSent : Prop :=
  ∀ (s : State) (p : List Byte), s.rx.state = .idle → s.tx.state = .idle → p.length ≤ 65532 →
    ∀ i op,
      (i, op) ∈
        [(Instr.opcGetImage (.send p), (0x01 : Byte)), (Instr.opcImg2Tz (.send p), 0x02),
         (Instr.opcHsSearch (.send p), 0x04), (Instr.opcRegModel (.send p), 0x05),
         (Instr.opcStore (.send p), 0x06), (Instr.opcLoad (.send p), 0x07),
         (Instr.opcUpload (.send p), 0x08), (Instr.opcDownload (.send p), 0x09),
         (Instr.opcDelete (.send p), 0x0C), (Instr.opcEmpty (.send p), 0x0D),
         (Instr.opcSetParam (.send p), 0x0E), (Instr.opcReadParams (.send p), 0x0F),
         (Instr.opcVerifyPwd (.send p), 0x13), (Instr.opcReadSysinfo (.send p), 0x16),
         (Instr.opcTemplateCount (.send p), 0x1D)] →
      exec i s = .next
        { s with
          tx := { state := .send, buf := frame 0x01 (op :: p), idx := 0, res := .none }
          host := { s.host with task := .none, refusal := none } }

/-- R96: the opcode rows that arrive on the line. (At a closed transport too: log entry 24.) -/
def Obligations.OpcodeRowsArrive : Prop :=
  ∀ (s : State) (a : Addr) (len : Word16) (body : List Byte),
    ∀ i op,
      (i, op) ∈
        [(Instr.opcGetImage (.recv a len body), (0x01 : Byte)), (Instr.opcImg2Tz (.recv a len body), 0x02),
         (Instr.opcHsSearch (.recv a len body), 0x04), (Instr.opcRegModel (.recv a len body), 0x05),
         (Instr.opcStore (.recv a len body), 0x06), (Instr.opcLoad (.recv a len body), 0x07),
         (Instr.opcUpload (.recv a len body), 0x08), (Instr.opcDownload (.recv a len body), 0x09),
         (Instr.opcDelete (.recv a len body), 0x0C), (Instr.opcEmpty (.recv a len body), 0x0D),
         (Instr.opcSetParam (.recv a len body), 0x0E), (Instr.opcReadParams (.recv a len body), 0x0F),
         (Instr.opcVerifyPwd (.recv a len body), 0x13), (Instr.opcReadSysinfo (.recv a len body), 0x16),
         (Instr.opcTemplateCount (.recv a len body), 0x1D)] →
      exec i s = .next
        { s with
          line :=
            { s.line with
              lineIn :=
                s.line.lineIn ++
                  ([0xEF, 0x01, a.a0, a.a1, a.a2, a.a3, 0x01, hi8 len, lo8 len, op] ++ body).map LineEvent.byte } }

/-- R97: the status rows handed to the TX framer: an acknowledgement whose first payload byte is the status. -/
def Obligations.StatusRowsAreSent : Prop :=
  ∀ (s : State) (p : List Byte), s.rx.state = .idle → s.tx.state = .idle → p.length ≤ 65532 →
    ∀ i st,
      (i, st) ∈
        [(Instr.stOk (.send p), (0x00 : Byte)), (Instr.stRxErr (.send p), 0x01),
         (Instr.stNoFinger (.send p), 0x02), (Instr.stImageFail (.send p), 0x03),
         (Instr.stNotFound (.send p), 0x09), (Instr.stEnrollMismatch (.send p), 0x0A)] →
      exec i s = .next
        { s with
          tx := { state := .send, buf := frame 0x07 (st :: p), idx := 0, res := .none }
          host := { s.host with task := .none, refusal := none } }

/-- R97: the status rows that arrive on the line. (At a closed transport too: log entry 24.) -/
def Obligations.StatusRowsArrive : Prop :=
  ∀ (s : State) (a : Addr) (len : Word16) (body : List Byte),
    ∀ i st,
      (i, st) ∈
        [(Instr.stOk (.recv a len body), (0x00 : Byte)), (Instr.stRxErr (.recv a len body), 0x01),
         (Instr.stNoFinger (.recv a len body), 0x02), (Instr.stImageFail (.recv a len body), 0x03),
         (Instr.stNotFound (.recv a len body), 0x09), (Instr.stEnrollMismatch (.recv a len body), 0x0A)] →
      exec i s = .next
        { s with
          line :=
            { s.line with
              lineIn :=
                s.line.lineIn ++
                  ([0xEF, 0x01, a.a0, a.a1, a.a2, a.a3, 0x07, hi8 len, lo8 len, st] ++ body).map LineEvent.byte } }

/-- R126, R128, R159, R217 item 5: an operation issued while BUSY, whatever its payload, and else a request with more
than 65533 payload bytes, is refused: the state does not change, the refusal is recorded (R9, log entry 5). -/
def Obligations.BusyOrLongRequestIsRefused : Prop :=
  ∀ (s : State) (i : Instr),
    (s.rx.state ≠ .idle ∨ s.tx.state ≠ .idle → request i ≠ none ∨ i = .decode →
      exec i s = .next { s with host := { s.host with refusal := some .busy } }) ∧
    (s.rx.state = .idle → s.tx.state = .idle → ∀ t p, request i = some (t, p) → 65533 < p.length →
      exec i s = .next { s with host := { s.host with refusal := some .txTooLong } })

/-! ## The frame and the checksum -/

/-- R58, R80, R84, R87, R129 items 2 and 3: the layout of the frame the TX framer builds. -/
def Obligations.FrameLayout : Prop :=
  ∀ (t : Byte) (p : List Byte), p.length ≤ 65533 →
    (frame t p).length = p.length + 11 ∧
    (frame t p).take 7 = [0xEF, 0x01, 0xFF, 0xFF, 0xFF, 0xFF, t] ∧
    (∃ h l, (frame t p)[7]? = some h ∧ (frame t p)[8]? = some l ∧ 256 * h.toNat + l.toNat = p.length + 2) ∧
    ((frame t p).drop 9).take p.length = p ∧
    (∃ ch cl, (frame t p).drop (9 + p.length) = [ch, cl] ∧
      256 * ch.toNat + cl.toNat =
        ((p.length + 2) / 256 + (p.length + 2) % 256 + t.toNat + (p.map BitVec.toNat).sum) % 65536)

/-- R122: reducing once at the end equals adding into a 16-bit register that wraps at every step. -/
def Obligations.ChecksumIsAWrappingRegister : Prop :=
  ∀ (t : Byte) (p : List Byte),
    chk t p =
      (hi8 (lenField p) :: lo8 (lenField p) :: t :: p).foldl (fun (acc : Word16) b => acc + b.setWidth 16) 0

/-- R252: the sum does not see the order of the payload bytes. -/
def Obligations.ChecksumBlindToOrder : Prop :=
  ∀ (t : Byte) (p q : List Byte), p.Perm q → chk t p = chk t q

/-- R252: the sum sees every corruption of one payload byte and of the type byte. -/
def Obligations.ChecksumSeesOneChangedByte : Prop :=
  (∀ (t b c : Byte) (p q : List Byte), b ≠ c → chk t (p ++ b :: q) ≠ chk t (p ++ c :: q)) ∧
  (∀ (t u : Byte) (p : List Byte), t ≠ u → chk t p ≠ chk u p)

/-- R101: `Frame` is injective, and a frame the deframer accepts with `CHK_VERIFY` true and `ADDR` = FF FF FF FF is
the `Frame` of its type and payload. -/
def Obligations.FrameDeterminesTypeAndPayload : Prop :=
  (∀ (t u : Byte) (p q : List Byte), p.length ≤ 65533 → q.length ≤ 65533 → frame t p = frame u q → t = u ∧ p = q) ∧
  (∀ (par : Params) (f r : List Byte), par.chkVerify = true →
    f.take 1 = [0xEF] → (f.drop 2).take 4 = [0xFF, 0xFF, 0xFF, 0xFF] →
    decodeRun par (f.map LineEvent.byte) = (.reply r, []) →
      ∃ t p, r = t :: p ∧ p.length ≤ 65533 ∧ f = frame t p)

/-! ## TX steps -/

/-- R123: the step in SEND. -/
def Obligations.TxSendStep : Prop :=
  ∀ (s : State) (b : Byte), s.host.delays = [] → s.tx.state = .send → s.tx.buf[s.tx.idx]? = some b →
    (∀ l, s.line.write b = (true, l) →
      step s = .next
        { s with
          line := l
          tx :=
            { state := if s.tx.idx + 1 < s.tx.buf.length then .send else .flush
              buf := s.tx.buf
              idx := s.tx.idx + 1
              res := s.tx.res } }) ∧
    (∀ l, s.line.write b = (false, l) →
      step s = .next
        { s with line := l, tx := { state := .idle, buf := [], idx := 0, res := .err .cantWrite .none } })

/-- R124: the step in FLUSH, and what a whole `ENCODE` whose every call is answered `Ok` comes to: exactly `F` steps of
R123 and one of R124, after which the bytes of `Frame(t, p)` are on the line, in order, after everything written
before. (How many of them were there before the flush is free, log entry 7; `n` is the count of free values taken.) -/
def Obligations.EncodeCompletesOnTheLine : Prop :=
  (∀ s : State, s.host.delays = [] → s.tx.state = .flush →
    (∀ l, s.line.flush = (true, l) →
      step s = .next { s with line := l, tx := { state := .idle, buf := [], idx := 0, res := .done } }) ∧
    (∀ l, s.line.flush = (false, l) →
      step s = .next
        { s with line := l, tx := { state := .idle, buf := [], idx := 0, res := .err .cantWrite .none } })) ∧
  (∀ (s : State) (t : Byte) (p : List Byte) (later : List Bool),
    s.host.delays = [] → s.tx = { state := .send, buf := frame t p, idx := 0, res := .none } →
    s.line.isOpen = true → s.line.kind = .oracle →
    s.line.answers = List.replicate (p.length + 12) true ++ later →
      ∃ n, runSteps (p.length + 12) s = .next
        { s with
          tx := { state := .idle, buf := [], idx := 0, res := .done }
          line :=
            { s.line with
              answers := later
              sendBuf := []
              early := 0
              lineOut := s.line.lineOut ++ (s.line.sendBuf ++ frame t p).drop s.line.early
              tick := n } })

/-- R125: the `k`-th call of an `ENCODE` (counted from 0, the flush the last) is the first that answers `Error`: the
operation ends there, no later call is made, and of the bytes not yet flushed some prefix reaches the line (`early` of
them were there at the start). (That the byte of the failing call may be among them (V-TX24), and that the others are
dropped, is the model's, log entry 7.) -/
def Obligations.EncodeFailsAtAnyCall : Prop :=
  ∀ (s : State) (t : Byte) (p : List Byte) (k : Nat) (later : List Bool),
    s.host.delays = [] → s.tx = { state := .send, buf := frame t p, idx := 0, res := .none } →
    s.line.isOpen = true → s.line.kind = .oracle → k < p.length + 12 →
    s.line.answers = List.replicate k true ++ false :: later →
      ∃ j l,
        runSteps (k + 1) s = .next
          { s with line := l, tx := { state := .idle, buf := [], idx := 0, res := .err .cantWrite .none } } ∧
        l.isOpen = true ∧ l.kind = .oracle ∧ l.opens = s.line.opens ∧ l.answers = later ∧
        l.lineIn = s.line.lineIn ∧ l.sendBuf = [] ∧ l.early = 0 ∧
        l.lineOut = s.line.lineOut ++ ((s.line.sendBuf ++ (frame t p).take (k + 1)).take j).drop s.line.early

/-- R129 item 1: `ENCODE` over the reference transport. -/
def Obligations.EncodeOverReferenceTransport : Prop :=
  ∀ (s : State) (t : Byte) (p : List Byte),
    s.rx.state = .idle → s.tx.state = .idle → p.length ≤ 65533 → s.host.delays = [] →
    s.line.isOpen = true → s.line.kind = .reference → s.line.sendBuf = [] →
      ∃ s', exec (.encode t p) s = .next s' ∧
        runSteps (p.length + 12) s' = .next
          { s with
            tx := { state := .idle, buf := [], idx := 0, res := .done }
            line := { s.line with lineOut := s.line.lineOut ++ frame t p, early := 0 }
            host := { s.host with task := .none, refusal := none } }

/-- R256, R226: over any transport whatsoever an accepted `ENCODE` ends, after at most `|p| + 12` steps, with `Done` or
`Err(CantWrite, NONE)`. -/
def Obligations.EncodeAlwaysEnds : Prop :=
  ∀ (s : State) (t : Byte) (p : List Byte), s.host.delays = [] →
    s.tx = { state := .send, buf := frame t p, idx := 0, res := .none } →
      ∃ n s', 1 ≤ n ∧ n ≤ p.length + 12 ∧ runSteps n s = .next s' ∧ s'.rx = s.rx ∧ s'.line.lineIn = s.line.lineIn ∧
        (s'.tx = { state := .idle, buf := [], idx := 0, res := .done } ∨
         s'.tx = { state := .idle, buf := [], idx := 0, res := .err .cantWrite .none })

/-- R255, R256: over the reference transport every operation ends with an outcome: an `ENCODE` after `|p| + 12` transport
calls, a `DECODE` after at most `|LINE_IN| + 1` reads; and the run of a host program that is not empty, whose requests are
not too long, comes to a state in which it has ended, which is its end state: without a session call to make, the machine
stays in it. (What is said of a program whose last row is `RESET` or an arriving frame is the model's, log entry 25.) -/
def Obligations.EveryOperationEndsOverTheReferenceTransport : Prop :=
  ∀ s : State, s.host.delays = [] → s.rx.state = .idle → s.tx.state = .idle → s.line.isOpen = true →
    s.line.kind = .reference →
      (∀ (t : Byte) (p : List Byte), p.length ≤ 65533 →
        ∃ s₁ s₂, exec (.encode t p) s = .next s₁ ∧ runSteps (p.length + 12) s₁ = .next s₂ ∧ s₂.encodeEnded) ∧
      (∃ n s₁ s₂, n ≤ s.line.lineIn.length + 1 ∧ exec .decode s = .next s₁ ∧ runSteps n s₁ = .next s₂ ∧
        s₂.decodeEnded) ∧
      (∀ prog : List Instr, prog ≠ [] → (∀ i ∈ prog, i.wellFormed = true) →
        (∀ i ∈ prog, ∀ t p, request i = some (t, p) → p.length ≤ 65533) →
        s.host.ops = prog.flatMap encode → s.host.task = .none →
          ∃ n s', runSteps n s = .next s' ∧ s'.runEnded prog ∧
            (s.host.calls = [] → ∀ m, ∃ s'', runSteps m s' = .next s'' ∧ s''.endState = s'.endState))

/-- R56, R34: what `TransportWrite` and `TransportFlush` of the oracle do to the bytes, `early` of which are on the line
before any flush; neither touches the line-in stream. (Dropping what does not reach the line after an `Error` is the
model's, log entry 7.) -/
def Obligations.WriteAndFlushEffects : Prop :=
  ∀ (l l' : Line) (b : Byte), l.kind = .oracle →
    (l.write b = (true, l') →
      l'.sendBuf = l.sendBuf ++ [b] ∧ l'.lineIn = l.lineIn ∧
        (∃ k, l'.lineOut = l.lineOut ++ ((l.sendBuf ++ [b]).take k).drop l.early) ∧
        l'.lineOut ++ l'.sendBuf.drop l'.early = l.lineOut ++ (l.sendBuf ++ [b]).drop l.early) ∧
    (l.write b = (false, l') →
      l'.sendBuf = [] ∧ l'.early = 0 ∧ l'.lineIn = l.lineIn ∧
        ∃ k, l'.lineOut = l.lineOut ++ ((l.sendBuf ++ [b]).take k).drop l.early) ∧
    (l.flush = (true, l') →
      l'.sendBuf = [] ∧ l'.early = 0 ∧ l'.lineOut = l.lineOut ++ l.sendBuf.drop l.early ∧ l'.lineIn = l.lineIn) ∧
    (l.flush = (false, l') →
      l'.sendBuf = [] ∧ l'.early = 0 ∧ l'.lineIn = l.lineIn ∧
        ∃ k, l'.lineOut = l.lineOut ++ (l.sendBuf.take k).drop l.early)

/-! ## RX steps -/

/-- R142, R143: a byte in HUNT. -/
def Obligations.HuntStep : Prop :=
  ∀ (s : State) (b : Byte) (l : Line), s.host.delays = [] → s.tx.state = .idle → s.rx.state = .hunt →
    s.line.read = (.byte b, l) →
      (b ≠ 0xEF → step s = .next { s with line := l }) ∧
      (b = 0xEF →
        step s = .next { s with line := l, rx := { s.rx with state := .head, buf := [0xEF], cnt := 1 } })

/-- R142, R162: a hunt discards any number of bytes other than `0xEF`, keeps no count of them and is still a hunt. -/
def Obligations.HuntDiscardsAnyNumberOfBytes : Prop :=
  ∀ (s : State) (g : List Byte) (later : List LineEvent), s.host.delays = [] → s.tx.state = .idle →
    s.rx.state = .hunt → s.line.isOpen = true → s.line.lineIn = g.map LineEvent.byte ++ later →
    (∀ b ∈ g, b ≠ 0xEF) →
      runSteps g.length s = .next { s with line := { s.line with lineIn := later } }

/-- R144 to R147: a byte in HEAD; with the ninth the header check, marker before length. -/
def Obligations.HeadStep : Prop :=
  ∀ (s : State) (x : Byte) (l : Line), s.host.delays = [] → s.tx.state = .idle → s.rx.state = .head →
    s.line.read = (.byte x, l) →
      (s.rx.cnt + 1 ≠ 9 →
        step s = .next { s with line := l, rx := { s.rx with buf := s.rx.buf ++ [x], cnt := s.rx.cnt + 1 } }) ∧
      (∀ m n a0 a1 a2 a3 t h, s.rx.cnt = 8 → s.rx.buf = [m, n, a0, a1, a2, a3, t, h] →
        (¬(m = 0xEF ∧ n = 0x01) →
          step s = .next
            { s with
              line := l
              rx := { state := .idle, buf := [], cnt := 0, len := 0, sum := 0, res := .err .badData .marker } }) ∧
        (m = 0xEF → n = 0x01 →
          256 * h.toNat + x.toNat < 2 ∨ s.par.maxLen.toNat < 256 * h.toNat + x.toNat →
          step s = .next
            { s with
              line := l
              rx := { state := .idle, buf := [], cnt := 0, len := 0, sum := 0, res := .err .badData .length } }) ∧
        (m = 0xEF → n = 0x01 →
          2 ≤ 256 * h.toNat + x.toNat → 256 * h.toNat + x.toNat ≤ s.par.maxLen.toNat →
          step s = .next
            { s with
              line := l
              rx :=
                { state := .body, buf := [m, n, a0, a1, a2, a3, t, h, x], cnt := 9
                  len := BitVec.ofNat 16 (256 * h.toNat + x.toNat)
                  sum := BitVec.ofNat 16 (t.toNat + h.toNat + x.toNat), res := s.rx.res } }))

/-- R148: a byte in BODY that is not the frame's last: appended, and summed when it is a payload byte. -/
def Obligations.BodyStep : Prop :=
  ∀ (s : State) (x : Byte) (l : Line), s.host.delays = [] → s.tx.state = .idle → s.rx.state = .body →
    s.line.read = (.byte x, l) → s.rx.cnt + 1 ≠ 9 + s.rx.len.toNat →
      step s = .next
        { s with
          line := l
          rx :=
            { s.rx with
              buf := s.rx.buf ++ [x]
              cnt := s.rx.cnt + 1
              sum := if s.rx.cnt < 7 + s.rx.len.toNat then s.rx.sum + x.setWidth 16 else s.rx.sum } }

/-- R149, R150, R151: the last byte, at the count `9 + RXLEN`: the checksum comparison, then the Reply. -/
def Obligations.LastByteStep : Prop :=
  ∀ (s : State) (m n a0 a1 a2 a3 t h k ch cl : Byte) (p : List Byte) (l : Line),
    s.host.delays = [] → s.tx.state = .idle → s.rx.state = .body → s.line.read = (.byte cl, l) →
    s.rx.len.toNat = p.length + 2 → s.rx.cnt = 8 + s.rx.len.toNat →
    s.rx.buf = m :: n :: a0 :: a1 :: a2 :: a3 :: t :: h :: k :: (p ++ [ch]) →
      (s.par.chkVerify = true → 256 * ch.toNat + cl.toNat ≠ s.rx.sum.toNat →
        step s = .next
          { s with
            line := l
            rx := { state := .idle, buf := [], cnt := 0, len := 0, sum := 0, res := .err .badData .checksum } }) ∧
      (s.par.chkVerify = false ∨ 256 * ch.toNat + cl.toNat = s.rx.sum.toNat →
        step s = .next
          { s with
            line := l
            rx := { state := .idle, buf := [], cnt := 0, len := 0, sum := 0, res := .reply (t :: p) } })

/-- R152, R153, R154: a read that fails, in HUNT, HEAD and BODY alike, whatever was accumulated. -/
def Obligations.ReadFailuresEndTheDecode : Prop :=
  ∀ (s : State) (l : Line), s.host.delays = [] → s.tx.state = .idle → s.rx.state ≠ .idle →
    (s.line.read = (.timeout, l) →
      step s = .next
        { s with
          line := l
          rx := { state := .idle, buf := [], cnt := 0, len := 0, sum := 0, res := .err .notResponding .none } }) ∧
    (s.line.read = (.error, l) →
      step s = .next
        { s with
          line := l
          rx := { state := .idle, buf := [], cnt := 0, len := 0, sum := 0, res := .err .cantRead .none } })

/-- R157: running the RX steps to completion is `DecodeRun`; over the reference transport it takes at most
`|LINE_IN| + 1` reads (R256). -/
def Obligations.DecodeStepsEqualDecodeRun : Prop :=
  ∀ s : State, s.host.delays = [] → s.tx.state = .idle →
    s.rx = { state := .hunt, buf := [], cnt := 0, len := 0, sum := 0, res := .none } →
    s.line.isOpen = true → s.line.kind = .reference →
      ∃ n, 1 ≤ n ∧ n ≤ s.line.lineIn.length + 1 ∧
        runSteps n s = .next
          { s with
            line := { s.line with lineIn := (decodeRun s.par s.line.lineIn).2 }
            rx :=
              { state := .idle, buf := [], cnt := 0, len := 0, sum := 0
                res := (decodeRun s.par s.line.lineIn).1 } }

/-- R160: the round trip, for the definition and for the machine, `CHK_VERIFY` true or false, over any transport. -/
def Obligations.DecodeOfFrameIsItsReply : Prop :=
  ∀ (par : Params) (t : Byte) (p g : List Byte) (later : List LineEvent),
    p.length + 2 ≤ par.maxLen.toNat → (∀ b ∈ g, b ≠ 0xEF) →
      decodeRun par ((g ++ frame t p).map LineEvent.byte ++ later) = (.reply (t :: p), later) ∧
      ∀ s : State, s.par = par → s.host.delays = [] → s.tx.state = .idle →
        s.rx = { state := .hunt, buf := [], cnt := 0, len := 0, sum := 0, res := .none } →
        s.line.isOpen = true → s.line.lineIn = (g ++ frame t p).map LineEvent.byte ++ later →
          runSteps (g.length + p.length + 11) s = .next
            { s with
              line := { s.line with lineIn := later }
              rx := { state := .idle, buf := [], cnt := 0, len := 0, sum := 0, res := .reply (t :: p) } }

/-- R93: a frame with any four bytes in `ADDR` is accepted if it passes R92: its marker is right, its length is at most
`MAXLEN`, and its checksum field holds the checksum, or anything where `CHK_VERIFY` is false. -/
def Obligations.AnyAddressIsAccepted : Prop :=
  ∀ (par : Params) (a : Addr) (t : Byte) (p : List Byte) (c : Word16) (later : List LineEvent),
    p.length + 2 ≤ par.maxLen.toNat → (par.chkVerify = false ∨ c = chk t p) →
      decodeRun par ((image t a (lenField p) (p ++ [hi8 c, lo8 c])).map LineEvent.byte ++ later) =
        (.reply (t :: p), later)

/-- R155, R161: one stray `0xEF` before a good frame costs that frame: nine reads, `MARKER`, the rest left unread. -/
def Obligations.StrayMarkerByteCostsTheFrame : Prop :=
  ∀ (s : State) (t : Byte) (p : List Byte) (later : List LineEvent), p.length ≤ 65533 →
    s.host.delays = [] → s.tx.state = .idle →
    s.rx = { state := .hunt, buf := [], cnt := 0, len := 0, sum := 0, res := .none } →
    s.line.isOpen = true → s.line.lineIn = (0xEF :: frame t p).map LineEvent.byte ++ later →
      runSteps 9 s = .next
        { s with
          line := { s.line with lineIn := ((frame t p).drop 8).map LineEvent.byte ++ later }
          rx := { state := .idle, buf := [], cnt := 0, len := 0, sum := 0, res := .err .badData .marker } }

/-- R150, R164, R253: a frame whose checksum field holds another value `c` is consumed whole and fails with `CHECKSUM`
when `CHK_VERIFY` is true, and yields its Reply when it is false. -/
def Obligations.WrongChecksum : Prop :=
  ∀ (s : State) (t : Byte) (p : List Byte) (c : Word16) (later : List LineEvent),
    p.length + 2 ≤ s.par.maxLen.toNat → c ≠ chk t p → s.host.delays = [] → s.tx.state = .idle →
    s.rx = { state := .hunt, buf := [], cnt := 0, len := 0, sum := 0, res := .none } →
    s.line.isOpen = true →
    s.line.lineIn = (txHeader t p ++ p ++ [hi8 c, lo8 c]).map LineEvent.byte ++ later →
      runSteps (p.length + 11) s = .next
        { s with
          line := { s.line with lineIn := later }
          rx :=
            { state := .idle, buf := [], cnt := 0, len := 0, sum := 0
              res := if s.par.chkVerify = true then .err .badData .checksum else .reply (t :: p) } }

/-- R158: what one `DECODE` consumes, by outcome: `g` bytes discarded in the hunt, then `0xEF` and `tl`. -/
def Obligations.BytesConsumedByOutcome : Prop :=
  ∀ (par : Params) (es later : List LineEvent) (o : RxRes), decodeRun par es = (o, later) →
    ∃ g tl : List Byte, (∀ b ∈ g, b ≠ 0xEF) ∧
      ((∃ r L, o = .reply r ∧ es = (g ++ 0xEF :: tl).map LineEvent.byte ++ later ∧ tl.length + 1 = 9 + L ∧
          r.length + 1 = L) ∨
       ((o = .err .badData .marker ∨ o = .err .badData .length) ∧
          es = (g ++ 0xEF :: tl).map LineEvent.byte ++ later ∧ tl.length + 1 = 9) ∨
       (o = .err .badData .checksum ∧ par.chkVerify = true ∧
          es = (g ++ 0xEF :: tl).map LineEvent.byte ++ later ∧
          ∃ h l, tl[6]? = some h ∧ tl[7]? = some l ∧ tl.length + 1 = 9 + (256 * h.toNat + l.toNat)) ∨
       ((o = .err .notResponding .none ∧
            (es = (g ++ tl).map LineEvent.byte ∧ later = [] ∨
             es = (g ++ tl).map LineEvent.byte ++ LineEvent.timeout :: later) ∨
         o = .err .cantRead .none ∧ es = (g ++ tl).map LineEvent.byte ++ LineEvent.error :: later) ∧
        (tl = [] ∨ tl.head? = some 0xEF) ∧
        (tl.length < 9 ∨
          ∃ h l, tl[7]? = some h ∧ tl[8]? = some l ∧ tl.length ≤ 8 + (256 * h.toNat + l.toNat))))

/-! ## Invariants and whole-machine rules -/

/-- R35: a step from a state in which R35 holds leads to one in which it holds. -/
def Obligations.StepKeepsInv : Prop :=
  ∀ s s' : State, FramerInv s → step s = .next s' → FramerInv s'

/-- R37: "The reset state satisfies rule R35."; its outcome registers hold what R26 and R30 list. -/
def Obligations.ResetSatisfiesInv : Prop := FramerInv State.reset ∧ OutcomesLegal State.reset

/-- R36, U19: from a state in which R35 holds no run ever reads a buffer position that holds no value. -/
def Obligations.NoRunReadsAnUnwrittenByte : Prop := ∀ s : State, FramerInv s → Safe s

/-- R26, R30, R226: the outcome registers hold only the outcomes these rules list, whatever the line delivers. -/
def Obligations.StepKeepsOutcomesLegal : Prop :=
  ∀ s s' : State, OutcomesLegal s → step s = .next s' → OutcomesLegal s'

/-- R22, R23, R29: the counts fit 17 bits and the buffers their capacity. -/
def Obligations.CountsFitSeventeenBits : Prop :=
  ∀ s : State, FramerInv s →
    s.rx.cnt ≤ 9 + s.par.maxLen.toNat ∧ s.rx.cnt ≤ 65544 ∧ s.rx.buf.length ≤ 65544 ∧
    s.tx.idx ≤ 65544 ∧ s.tx.buf.length ≤ 65544 ∧ s.rx.cnt < 2 ^ 17 ∧ s.tx.idx < 2 ^ 17

/-- R38: what an operation that has ended, with success or failure, leaves behind. -/
def Obligations.EndedOperationLeavesResetState : Prop :=
  ∀ s s' : State, FramerInv s → s.busy = true → step s = .next s' → s'.busy = false →
    s'.rx = { state := .idle, buf := [], cnt := 0, len := 0, sum := 0, res := s'.rx.res } ∧
    s'.tx = { state := .idle, buf := [], idx := 0, res := s'.tx.res }

/-- R32: the parameters are not writable at run time. -/
def Obligations.ParametersAreNeverWritten : Prop :=
  ∀ s s' : State, step s = .next s' → s'.par = s.par

/-- R64, R55, R59: while RXSTATE is IDLE nothing leaves the receive queue, whatever the step; while a `DECODE` runs a
step takes at most its oldest entry, unless its read fails (then R55 leaves open what is removed; that it is some of the
oldest entries is the model's, log entry 19); what arrives stands behind what waits. -/
def Obligations.OnlyReadsTakeFromTheQueue : Prop :=
  ∀ s s' : State, step s = .next s' →
    (s.rx.state = .idle → ∃ bs : List Byte, s'.line.lineIn = s.line.lineIn ++ bs.map LineEvent.byte) ∧
    (s.rx.state ≠ .idle →
      ∃ (k : Nat) (bs : List Byte),
        s'.line.lineIn = s.line.lineIn.drop k ++ bs.map LineEvent.byte ∧
          (k ≤ 1 ∨ s'.rx.res = .err .cantRead .none))

/-- R50, R59, R223, R241: what is on the line stays there, and only the TX framer's calls add to it. (That unflushed bytes
run ahead of the flush at a write only, so that none reaches the line later, as after a `RESET` in SEND, is the model's,
log entry 7.) -/
def Obligations.OnlyTxWritesTheLine : Prop :=
  ∀ s s' : State, step s = .next s' →
    (∃ bs : List Byte, s'.line.lineOut = s.line.lineOut ++ bs) ∧
    (s.tx.state = .idle →
      s'.line.lineOut = s.line.lineOut ∧ s'.line.sendBuf = s.line.sendBuf ∧ s'.line.early = s.line.early)

/-- R62, R140, R218, R223: a TX step leaves the RX half, the line-in stream and the host alone; an RX step leaves the
TX half, the bytes written and the host alone. -/
def Obligations.EachHalfLeavesTheOtherAlone : Prop :=
  ∀ s s' : State, s.host.delays = [] → step s = .next s' →
    (s.tx.state ≠ .idle → s'.rx = s.rx ∧ s'.line.lineIn = s.line.lineIn ∧ s'.host = s.host) ∧
    (s.tx.state = .idle → s.rx.state ≠ .idle →
      s'.tx = s.tx ∧ s'.line.lineOut = s.line.lineOut ∧ s'.line.sendBuf = s.line.sendBuf ∧
        s'.line.early = s.line.early ∧ s'.host = s.host)

/-! ## Fetching and the encoding -/

/-- R7, R180, R240: when it is the host's turn, and also when the host does not wait, the step is `exec` of the
instruction at the head of the host's operations, with the stream moved past its word. -/
def Obligations.StepRunsTheDecodedInstruction : Prop :=
  ∀ (s : State) (i : Instr) (bs : List Byte), decode s.host.ops = .ok (i, bs) →
    (s.host.delays = [] → s.rx.state = .idle → s.tx.state = .idle → s.host.task = .none →
      step s = exec i { s with host := { s.host with ops := bs } }) ∧
    (∀ ds, s.host.delays = some 0 :: ds →
      step s = exec i { s with host := { s.host with ops := bs, delays := ds } })

/-- R180: bytes that are no operation are refused by name. -/
def Obligations.StepRefusesWhatIsNoOperation : Prop :=
  ∀ (s : State) (e : DecodeError), s.host.ops ≠ [] → decode s.host.ops = .error e →
    s.host.delays = [] → s.rx.state = .idle → s.tx.state = .idle → s.host.task = .none →
      step s = .refused (.noOperation e)

/-- R37: the block does nothing until the host issues an operation. -/
def Obligations.IdleBlockDoesNothing : Prop :=
  ∀ s : State, s.host.ops = [] → s.host.calls = [] → s.host.delays = [] → s.host.task = .none →
    s.rx.state = .idle → s.tx.state = .idle → step s = .next s

/-- R80, R90, R96, R97, R99, R100: decode of encode, with any bytes behind, for every well-formed instruction. (The
markers `<` and `>` and the line feed are the model's, log entries 8 and 9.) -/
def Obligations.DecodeOfEncode : Prop :=
  ∀ (i : Instr) (bs : List Byte), i.wellFormed = true → decode (encode i ++ bs) = .ok (i, bs)

/-- The other direction: a word has one meaning, and decodes to well-formed instructions only. -/
def Obligations.EncodeOfDecode : Prop :=
  ∀ (w bs : List Byte) (i : Instr), decode w = .ok (i, bs) → i.wellFormed = true ∧ w = encode i ++ bs

/-- Words written out from the spec: V-TX1, V-TX3 and the frames of S2 and V-RX7 (R80, R90, R96, R97), and R99. (The marks
and the line feed are the model's, log entries 8 and 9; so is that a frame decodes to its most specific row, log entry
10.) -/
def Obligations.WordsOfTheSpecDecode : Prop :=
  decode [0x3E, 0xEF, 0x01, 0xFF, 0xFF, 0xFF, 0xFF, 0x01, 0x00, 0x07, 0x13, 0x00, 0x00, 0x00, 0x00, 0x00, 0x1B] =
    .ok (.opcVerifyPwd (.send [0x00, 0x00, 0x00, 0x00]), []) ∧
  decode [0x3E, 0xEF, 0x01, 0xFF, 0xFF, 0xFF, 0xFF, 0x07, 0x00, 0x02, 0x00, 0x09] =
    .ok (.frameAck (.send []), []) ∧
  decode [0x3C, 0xEF, 0x01, 0xFF, 0xFF, 0xFF, 0xFF, 0x07, 0x00, 0x03, 0x09, 0x00, 0x13] =
    .ok (.stNotFound (.recv ⟨0xFF, 0xFF, 0xFF, 0xFF⟩ 0x0003 [0x00, 0x13]), []) ∧
  decode [0x3C, 0xEF, 0x01, 0x01, 0x02, 0x03, 0x04, 0x07, 0x00, 0x03, 0x00, 0x00, 0x0A] =
    .ok (.stOk (.recv ⟨0x01, 0x02, 0x03, 0x04⟩ 0x0003 [0x00, 0x0A]), []) ∧
  decode [0x52, 0x45, 0x53, 0x45, 0x54, 0x0A] = .ok (.reset, [])

/-! ## The host -/

/-- R181: an exchange, begun to ended, over the reference transport: the request goes out, the Reply comes in. -/
def Obligations.ExchangeDeliversTheReply : Prop :=
  ∀ (s : State) (t u : Byte) (p q g : List Byte) (later : List LineEvent),
    s.rx.state = .idle → s.tx.state = .idle → s.host.delays = [] → p.length ≤ 65533 →
    q.length + 2 ≤ s.par.maxLen.toNat → (∀ b ∈ g, b ≠ 0xEF) →
    s.line.isOpen = true → s.line.kind = .reference → s.line.sendBuf = [] →
    s.line.lineIn = (g ++ frame u q).map LineEvent.byte ++ later →
      ∃ s', exec (.exchange t p) s = .next s' ∧
        runSteps ((p.length + 12) + 1 + (g.length + q.length + 11) + 1) s' = .next
          { s with
            tx := { state := .idle, buf := [], idx := 0, res := .done }
            rx := { state := .idle, buf := [], cnt := 0, len := 0, sum := 0, res := .reply (u :: q) }
            line := { s.line with lineIn := later, lineOut := s.line.lineOut ++ frame t p, early := 0 }
            host := { s.host with task := .none, refusal := none, out := .reply (u :: q) } }

/-- R181, R184: a failure of the framer ends the exchange; the handshake fails with `CantConnect`. (That this carries no
bytes is the model's, log entry 13, and so is that a failed handshake leaves the session state, log entry 21, and the
transport, log entry 24, as they were.) -/
def Obligations.ExchangeHandsFailuresOn : Prop :=
  ∀ (s : State) (g : Goal) (k : Kind) (c : Cause),
    s.host.delays = [] → s.rx.state = .idle → s.tx.state = .idle →
    (s.host.task = .sending g ∧ s.tx.res = .err k c ∨ s.host.task = .receiving g ∧ s.rx.res = .err k c) →
      step s = .next
        { s with
          host :=
            { s.host with
              task := .none
              out := if g = .handshake then .cantConnect [] else .failed k c } }

/-- R183, R184, R220: the session becomes `Connected` only by a handshake whose Reply begins 07 00, and
`Disconnected` only by `close`. -/
def Obligations.SessionStateChangesOnlySo : Prop :=
  ∀ s s' : State, step s = .next s' →
    (s.host.conn = .disconnected → s'.host.conn = .connected →
      s.host.task = .receiving .handshake ∧ ∃ r, s.rx.res = .reply (0x07 :: 0x00 :: r)) ∧
    (s.host.conn = .connected → s'.host.conn = .disconnected → s.host.calls.head?.map SessionCall.call = some .close)

/-- R185 to R188: what the host makes of the Reply `r` of a handshake, of a void operation, of a search and of
register-model, where that ends the operation. (The model's: a Reply too short to hold what is read is host `BadData`, log
entry 13; a handshake that fails leaves the session state as it was, also when it was `Connected`, log entry 21.) -/
def Obligations.RepliesAreClassified : Prop :=
  ∀ (s : State) (r : List Byte), s.host.delays = [] → s.rx.state = .idle → s.tx.state = .idle → s.rx.res = .reply r →
    (s.host.task = .receiving .handshake →
      ∃ s', step s = .next s' ∧
        ((∃ x, r = 0x07 :: 0x00 :: x) → s'.host.conn = .connected ∧ s'.host.out = .done) ∧
        ((¬∃ x, r = 0x07 :: 0x00 :: x) → s'.host.conn = s.host.conn ∧ s'.host.out = .cantConnect r)) ∧
    (s.host.task = .receiving .ack →
      ∃ s', step s = .next s' ∧
        ((∃ x, r = 0x07 :: 0x00 :: x) → s'.host.out = .done) ∧
        ((¬∃ x, r = 0x07 :: 0x00 :: x) → s'.host.out = .badReply r)) ∧
    (s.host.task = .receiving .search →
      ∃ s', step s = .next s' ∧
        (∀ x, r = 0x07 :: 0x09 :: x → s'.host.out = .noMatch) ∧
        (∀ ih il ch cl x, r = 0x07 :: 0x00 :: ih :: il :: ch :: cl :: x →
          s'.host.out = .position (be16 ih il) (be16 ch cl)) ∧
        (∀ x, r = 0x07 :: 0x00 :: x → x.length < 4 → s'.host.out = .badReply r) ∧
        ((¬∃ x, r = 0x07 :: 0x00 :: x) → (¬∃ x, r = 0x07 :: 0x09 :: x) → s'.host.out = .badReply r)) ∧
    (∀ args, s.host.task = .receiving (.modelRegister args) →
      ∃ s', step s = .next s' ∧
        (∀ x, r = 0x07 :: 0x0A :: x → s'.host.out = .enrollMismatch) ∧
        ((¬∃ x, r = 0x07 :: 0x00 :: x) → (¬∃ x, r = 0x07 :: 0x0A :: x) → s'.host.out = .badReply r))

/-- R189: the upload data phase: a data packet is appended and the next `DECODE` issued without an `ENCODE`; the
end-of-data packet's payload is part of the result; any other tag is host `BadData`. (That issuing the `DECODE` clears
the recorded refusal is the model's, log entry 12.) -/
def Obligations.UploadCollectsPackets : Prop :=
  ∀ (s : State) (t : Byte) (p out : List Byte),
    s.host.delays = [] → s.rx.state = .idle → s.tx.state = .idle → s.rx.res = .reply (t :: p) →
    s.host.task = .receiving (.modelData out) →
      (t = 0x02 →
        step s = .next
          { s with
            rx := { state := .hunt, buf := [], cnt := 0, len := 0, sum := 0, res := .none }
            host := { s.host with task := .receiving (.modelData (out ++ p)), refusal := none } }) ∧
      (t = 0x08 →
        step s = .next { s with host := { s.host with task := .none, out := .template (out ++ p) } }) ∧
      (t ≠ 0x02 → t ≠ 0x08 →
        step s = .next { s with host := { s.host with task := .none, out := .badReply (t :: p) } })

/-- R190, S7: `saveModel` after its download command was acknowledged: the 512 bytes go out as four packets of 128,
the last tagged end-of-data, then the store command with the position. (That issuing them clears the recorded refusal
and the host's last outcome is the model's, log entry 12.) -/
def Obligations.SaveModelSendsFourPackets : Prop :=
  ∀ (s : State) (pos : Word16) (c0 c1 c2 c3 x : List Byte),
    s.host.delays = [] → s.rx.state = .idle → s.tx.state = .idle →
    c0.length = 128 → c1.length = 128 → c2.length = 128 → c3.length = 128 →
    s.rx.res = .reply (0x07 :: 0x00 :: x) →
    s.host.task = .receiving (.saveDownload (c0 ++ c1 ++ c2 ++ c3) pos) →
    s.line.isOpen = true → s.line.kind = .reference → s.line.sendBuf = [] →
      ∃ n, runSteps n s = .next
        { s with
          tx := { state := .idle, buf := [], idx := 0, res := .done }
          line :=
            { s.line with
              lineOut :=
                s.line.lineOut ++ frame 0x02 c0 ++ frame 0x02 c1 ++ frame 0x02 c2 ++ frame 0x08 c3 ++
                  frame 0x01 [0x06, 0x01, hi8 pos, lo8 pos]
              early := 0 }
          host := { s.host with task := .sending .ack, refusal := none, out := .none } }

/-- R183, R249, R182, R195: a session call other than `connect` and `close` needs `Connected`, and `saveModel` a template of
512 bytes: else it is refused and nothing but that is recorded; `close` is done in any state, in mid-operation too, closes
the transport and has no effect on framer state; the operations behind the call are the host's next. (The model's: the
record, log entry 21; that the host then waits for nothing, log entry 12; that `close` keeps the transport's buffers and
leaves it closed whatever its teardown met, log entry 24; how operations and calls are held, log entry 1.) -/
def Obligations.SessionCallsAreGated : Prop :=
  ∀ (s : State) (c : Call) (bs : List Byte) (cs : List SessionCall), s.host.ops = [] → s.host.calls = ⟨c, bs⟩ :: cs →
    (s.host.delays = [] → s.rx.state = .idle → s.tx.state = .idle → s.host.task = .none →
      (s.host.conn = .disconnected → c ≠ .connect → c ≠ .close →
        step s = .next { s with host := { s.host with ops := bs, calls := cs, refusal := some .notConnected } }) ∧
      (∀ tmpl pos args, s.host.conn = .connected → c = .saveModel tmpl pos args → tmpl.length ≠ 512 →
        step s = .next { s with host := { s.host with ops := bs, calls := cs, refusal := some .templateLength } })) ∧
    (∀ ds,
      s.host.delays = some 0 :: ds ∨
          s.host.delays = [] ∧ ds = [] ∧ s.rx.state = .idle ∧ s.tx.state = .idle ∧ s.host.task = .none →
        c = .close →
          step s = .next
            { s with
              line := { s.line with isOpen := false }
              host :=
                { s.host with
                  ops := bs, calls := cs, delays := ds, conn := .disconnected, task := .none, out := .done } })
end

