-- ==== Sys2Proof/Laws/Operands.lean ====
section
/-! SUPPORT. What the arithmetic of Machine/Operands.lean computes. -/

namespace Sys2Proof.Machine

theorem byte_lt (b : Byte) : b.toNat < 256 := b.isLt

@[simp] theorem be16_toNat (h l : Byte) : (be16 h l).toNat = 256 * h.toNat + l.toNat := by
  have := byte_lt h; have := byte_lt l
  simp only [be16, BitVec.toNat_ofNat]; omega

@[simp] theorem hi8_toNat (v : Word16) : (hi8 v).toNat = v.toNat / 256 := by
  have := v.isLt
  simp only [hi8, BitVec.extractLsb'_toNat, Nat.shiftRight_eq_div_pow]; omega

@[simp] theorem lo8_toNat (v : Word16) : (lo8 v).toNat = v.toNat % 256 := by
  simp [lo8]

/-- R88: `be16` undoes `hi8` and `lo8`. -/
@[simp] theorem be16_hi8_lo8 (v : Word16) : be16 (hi8 v) (lo8 v) = v := by
  apply BitVec.eq_of_toNat_eq
  have := v.isLt
  simp only [be16_toNat, hi8_toNat, lo8_toNat]; omega

@[simp] theorem hi8_be16 (h l : Byte) : hi8 (be16 h l) = h := by
  apply BitVec.eq_of_toNat_eq
  have := byte_lt h; have := byte_lt l
  simp only [be16_toNat, hi8_toNat]; omega

@[simp] theorem lo8_be16 (h l : Byte) : lo8 (be16 h l) = l := by
  apply BitVec.eq_of_toNat_eq
  have := byte_lt h; have := byte_lt l
  simp only [be16_toNat, lo8_toNat]; omega

@[simp] theorem byteSum_nil : byteSum [] = 0 := rfl
@[simp] theorem byteSum_cons (b : Byte) (bs : List Byte) : byteSum (b :: bs) = b.toNat + byteSum bs := rfl

@[simp] theorem byteSum_append (xs ys : List Byte) : byteSum (xs ++ ys) = byteSum xs + byteSum ys := by
  induction xs with
  | nil => simp
  | cons x xs ih => simp [ih]; omega

/-- The sum does not depend on the order (R122). -/
theorem byteSum_perm {xs ys : List Byte} (h : xs.Perm ys) : byteSum xs = byteSum ys := by
  induction h with
  | nil => rfl
  | cons x _ ih => simp [ih]
  | swap x y l => simp; omega
  | trans _ _ ih₁ ih₂ => exact ih₁.trans ih₂

/-- R84: the length field of a payload that fits. -/
theorem lenField_toNat {p : List Byte} (h : p.length ≤ 65533) : (lenField p).toNat = p.length + 2 := by
  simp only [lenField, Config.lenBias, BitVec.toNat_ofNat]; omega

/-- The length field depends on the payload's length only. -/
theorem lenField_congr {p q : List Byte} (h : p.length = q.length) : lenField p = lenField q := by
  simp [lenField, h]

/-- R86: the checksum as a number. -/
theorem chk_toNat (t : Byte) (p : List Byte) :
    (chk t p).toNat = ((lenField p).toNat / 256 + (lenField p).toNat % 256 + t.toNat + byteSum p) % 65536 := by
  simp [chk]

/-- R87: `F = N + 11`. -/
@[simp] theorem frame_length (t : Byte) (p : List Byte) : (frame t p).length = p.length + 11 := by
  simp [frame, txHeader]

/-- R121: the frame written out. -/
theorem frame_eq (t : Byte) (p : List Byte) :
    frame t p =
      0xEF :: 0x01 :: 0xFF :: 0xFF :: 0xFF :: 0xFF :: t :: hi8 (lenField p) :: lo8 (lenField p) ::
        (p ++ [hi8 (chk t p), lo8 (chk t p)]) := rfl

/-- R36: a slice that exists. -/
theorem slice?_eq_some {a b : Nat} {s r : List Byte} :
    slice? a b s = some r ↔ (a ≤ b ∧ b ≤ s.length) ∧ r = (s.take b).drop a := by
  unfold slice?; split <;> simp_all [eq_comm]

/-- The length of a slice. -/
theorem slice?_length {a b : Nat} {s r : List Byte} (h : slice? a b s = some r) : r.length = b - a := by
  obtain ⟨⟨_, hb⟩, rfl⟩ := slice?_eq_some.1 h
  simp [Nat.min_eq_left hb]

/-- R96: every listed opcode is found again from its byte. -/
@[simp] theorem opcodeOf_opcodeByte (o : Opcode) : opcodeOf (opcodeByte o) = some o := by
  cases o <;> decide

/-- R97: every listed status is found again from its byte. -/
@[simp] theorem statusOf_statusByte (c : Status) : statusOf (statusByte c) = some c := by
  cases c <;> decide

/-- R96 backwards: a byte that is a listed opcode is that opcode's byte. -/
theorem opcodeByte_of_opcodeOf {b : Byte} {o : Opcode} (h : opcodeOf b = some o) : opcodeByte o = b := by
  simpa using List.find?_some h

/-- R97 backwards: a byte that is a listed status is that status's byte. -/
theorem statusByte_of_statusOf {b : Byte} {c : Status} (h : statusOf b = some c) : statusByte c = b := by
  simpa using List.find?_some h

end Sys2Proof.Machine
end

