-- ==== Sys2Proof/Laws/Decode.lean ====
section
/-! SUPPORT. The notation of R99 and R100 and the frame are written and read back, in both directions. -/

namespace Sys2Proof.Decode

open Sys2Proof.Machine Sys2Proof.Encode

/-- R99: the two digits written for a byte are read back as that byte. -/
theorem unhex_hex (b : Byte) : unhexByte (hexDigit (b.toNat / 16)) (hexDigit (b.toNat % 16)) = some b := by
  revert b; decide

/-- R99: two digits that are read as a byte are the digits written for it. -/
theorem hex_unhex (c d b : Byte) (h : unhexByte c d = some b) : [c, d] = hexByte b := by
  unfold unhexByte at h
  have key : ∀ c : Byte, ∀ v, unhexDigit c = some v → v < 16 ∧ c = hexDigit v := by
    intro c v hv
    unfold unhexDigit at hv
    split at hv
    · simp at hv; refine ⟨by omega, ?_⟩
      unfold hexDigit; rw [if_pos (by omega)]; apply BitVec.eq_of_toNat_eq; simp; omega
    · split at hv
      · simp at hv; refine ⟨by omega, ?_⟩
        unfold hexDigit; rw [if_neg (by omega)]; apply BitVec.eq_of_toNat_eq; simp; omega
      · cases hv
  split at h
  · rename_i x y hx hy
    obtain ⟨hx1, rfl⟩ := key _ _ hx
    obtain ⟨hy1, rfl⟩ := key _ _ hy
    simp at h; subst h
    have e : (BitVec.ofNat 8 (16 * x + y)).toNat = 16 * x + y := by simp; omega
    unfold hexByte; rw [e, show (16 * x + y) / 16 = x by omega, show (16 * x + y) % 16 = y by omega]
  · cases h

/-- A keyword is found where it stands. -/
theorem strip_append (k bs) : strip k (k ++ bs) = some bs := by
  induction k with
  | nil => cases bs <;> rfl
  | cons a k ih => simp [strip, ih]

/-- What is left after a keyword was found. -/
theorem strip_some {k bs r} (h : strip k bs = some r) : bs = k ++ r := by
  induction k generalizing bs with
  | nil => cases bs <;> simp [strip] at h <;> simp [h]
  | cons a k ih =>
    rcases bs with _ | ⟨b, bs⟩
    · simp [strip] at h
    · simp only [strip] at h
      split at h
      · rename_i e; subst e; rw [ih h]; rfl
      · cases h

/-- R99: a payload that is not empty is read back. -/
theorem items_itemsText (p : List Byte) (hp : p ≠ []) (bs) : items (itemsText p ++ bs) = some (p, bs) := by
  induction p with
  | nil => exact absurd rfl hp
  | cons b p ih =>
    rcases p with _ | ⟨c, p⟩
    · simp [itemsText, hexByte, items, unhex_hex]
    · have := ih (by simp)
      simp [itemsText, hexByte, items, unhex_hex, this]; decide

/-- No digit is the closing bracket. -/
theorem hexDigit_ne (v : Nat) (h : v < 16) : hexDigit v ≠ closeBracket := by
  have : ∀ v : Fin 16, hexDigit v.1 ≠ closeBracket := by decide
  exact this ⟨v, h⟩

/-- R99: a payload is read back. -/
theorem payload_text (p : List Byte) (bs) : payload (itemsText p ++ bs) = some (p, bs) := by
  rcases p with _ | ⟨b, p⟩
  · simp [itemsText, payload]
  · have h := items_itemsText (b :: p) (by simp) bs
    have hd : ∃ r, itemsText (b :: p) ++ bs = hexDigit (b.toNat / 16) :: r := by
      rcases p with _ | ⟨c, p⟩ <;> simp [itemsText, hexByte]
    obtain ⟨r, hr⟩ := hd
    rw [hr] at h ⊢
    have : hexDigit (b.toNat / 16) ≠ closeBracket := hexDigit_ne _ (by have := b.isLt; omega)
    simp [payload, this, h]

/-- R99: a payload and the line feed are read back. -/
theorem payloadLine_text (p bs) : payloadLine (payloadText p ++ bs) = some (p, bs) := by
  unfold payloadLine payloadText
  rw [List.append_assoc, payload_text]; simp

/-- R99: `t, [p]` and the line feed are read back. -/
theorem typedLine_text (t p bs) : typedLine (typedText t p ++ bs) = some (t, p, bs) := by
  unfold typedText
  rw [List.append_assoc, List.append_assoc]
  simp only [hexByte, List.cons_append, List.nil_append, typedLine, unhex_hex, strip_append, payloadLine_text]

/-- R99: the items that are read are the items written for the payload they give. -/
theorem items_some (n : Nat) : ∀ {bs p r}, bs.length ≤ n → items bs = some (p, r) → p ≠ [] ∧ bs = itemsText p ++ r := by
  induction n with
  | zero => intro bs p r hn h; have : bs = [] := by simpa using hn
            subst this; simp [items] at h
  | succ n ih =>
    intro bs p r hn h
    match bs, hn with
    | [], _ => simp [items] at h
    | [_], _ => simp [items] at h
    | [_, _], _ => simp [items] at h
    | c :: d :: e :: rest, hn =>
      simp only [items] at h
      split at h
      · cases h
      · rename_i v hv
        have := hex_unhex _ _ _ hv
        split at h
        · rename_i he; subst he; simp at h; obtain ⟨rfl, rfl⟩ := h
          refine ⟨by simp, ?_⟩; simp [itemsText, ← this]
        · split at h
          · rename_i he; subst he
            split at h
            · rename_i vs r' hr
              simp at h; obtain ⟨rfl, rfl⟩ := h
              obtain ⟨h1, h2⟩ := ih (by simp at hn; omega) hr
              refine ⟨by simp, ?_⟩
              obtain ⟨w, ws, rfl⟩ := List.exists_cons_of_ne_nil h1
              simp [itemsText, ← this, h2]
            · cases h
          · cases h

/-- R99: the payload that is read is the payload written. -/
theorem payload_some {bs p r} (h : payload bs = some (p, r)) : bs = itemsText p ++ r := by
  rcases bs with _ | ⟨b, bs⟩
  · simp [payload] at h
  · simp only [payload] at h
    split at h
    · rename_i e; subst e; simp at h; obtain ⟨rfl, rfl⟩ := h; rfl
    · exact (items_some _ (Nat.le_refl _) h).2

/-- R99: a payload and the line feed that are read are as they are written. -/
theorem payloadLine_some {bs p r} (h : payloadLine bs = some (p, r)) : bs = payloadText p ++ r := by
  unfold payloadLine at h
  split at h
  · rename_i q e rest hq
    split at h
    · rename_i he; subst he; simp at h; obtain ⟨rfl, rfl⟩ := h
      rw [payload_some hq]; simp [payloadText]
    · cases h
  · cases h

/-- R99: `t, [p]` and the line feed that are read are as they are written. -/
theorem typedLine_some {bs t p r} (h : typedLine bs = some (t, p, r)) : bs = typedText t p ++ r := by
  unfold typedLine at h
  split at h
  · split at h
    · rename_i c d rest t' rest' h1 h2
      split at h
      · rename_i h3
        simp at h; obtain ⟨rfl, rfl, rfl⟩ := h
        have e1 := hex_unhex _ _ _ h1
        rw [strip_some h2, payloadLine_some h3]
        simp [typedText, ← e1]
      · cases h
    · cases h
  · cases h

/-- R194: a level 1 to 5 is read back. -/
theorem levelLine_text (n : Byte) (bs) (h : 1 ≤ n.toNat ∧ n.toNat ≤ 5) : levelLine (BitVec.ofNat 8 (48 + n.toNat) :: lineFeed :: bs) = some (n, bs) := by
  have : (BitVec.ofNat 8 (48 + n.toNat)).toNat = 48 + n.toNat := by simp; omega
  simp only [levelLine, this]
  rw [if_pos ⟨by omega, by omega, trivial⟩]
  simp

/-- R194: a level that is read is 1 to 5 and is as it is written. -/
theorem levelLine_some {bs n r} (h : levelLine bs = some (n, r)) : (1 ≤ n.toNat ∧ n.toNat ≤ 5) ∧ bs = BitVec.ofNat 8 (48 + n.toNat) :: lineFeed :: r := by
  unfold levelLine at h
  split at h
  · rename_i c e rest
    split at h
    · rename_i hc; obtain ⟨h1, h2, rfl⟩ := hc
      simp at h; obtain ⟨rfl, rfl⟩ := h
      have : (BitVec.ofNat 8 (c.toNat - 48)).toNat = c.toNat - 48 := by simp; omega
      rw [this]
      refine ⟨by omega, ?_⟩
      congr 1; apply BitVec.eq_of_toNat_eq; simp; omega
    · cases h
  · cases h

/-- R121: a frame handed to the TX framer is read as the row of its type. -/
theorem sent_frame (t : Byte) (p : List Byte) (hp : p.length ≤ 65533) (bs) : sent (frame t p ++ bs) = .ok (frameInstr t (.send p), bs) := by
  have hl := lenField_toNat hp
  rw [frame_eq]
  simp only [List.cons_append, sent, be16_hi8_lo8, hl, Config.lenBias]
  simp [Config.markerHi, Config.markerLo, Config.addrByte]

/-- R92, R94: a frame that arrives is read as the row of its type. -/
theorem received_image (t a len body) (hb : body.length = bodyLength len) (bs) : received (image t a len body ++ bs) = .ok (frameInstr t (.recv a len body), bs) := by
  simp only [image, List.cons_append, List.nil_append, received, be16_hi8_lo8, ← hb]
  simp

end Sys2Proof.Decode
end

