-- ==== Sys2Proof/Laws/DecodeRun.lean ====
section
/-! SUPPORT. Everything the loops of `DecodeRun` (R157) can do. -/

namespace Sys2Proof.Machine

/-- R152, R153: how the events `es` end a loop after the bytes `bs`: the outcome and the events left unread. -/
inductive Fails (es : List LineEvent) (bs : List Byte) : RxRes → List LineEvent → Prop where
  | eof (h : es = bs.map LineEvent.byte) : Fails es bs (.err .notResponding .none) []
  | timeout (rest : List LineEvent) (h : es = bs.map LineEvent.byte ++ .timeout :: rest) :
      Fails es bs (.err .notResponding .none) rest
  | error (rest : List LineEvent) (h : es = bs.map LineEvent.byte ++ .error :: rest) :
      Fails es bs (.err .cantRead .none) rest

/-- Bytes in front of a failing stream. -/
theorem Fails.app {es : List LineEvent} {bs : List Byte} {o : RxRes} {r : List LineEvent} (g : List Byte)
    (h : Fails es bs o r) : Fails (g.map LineEvent.byte ++ es) (g ++ bs) o r := by
  cases h with
  | eof h => subst h; exact .eof (by simp)
  | timeout r h => subst h; exact .timeout _ (by simp)
  | error r h => subst h; exact .error _ (by simp)

/-- R142, R143, R152, R153: everything a hunt over the events `es` can do. -/
theorem huntRun_cases (es : List LineEvent) : ∃ g : List Byte, (∀ b ∈ g, b ≠ 0xEF) ∧
   ((∃ es', huntRun es = .ok es' ∧ es = g.map LineEvent.byte ++ .byte 0xEF :: es') ∨ (∃ o r, huntRun es = .error (o, r) ∧ Fails es g o r)) := by
  induction es with
  | nil => exact ⟨[], by simp, .inr ⟨_, _, rfl, .eof rfl⟩⟩
  | cons e es ih =>
    rcases e with b | _ | _
    · by_cases hb : b = 0xEF
      · subst hb; exact ⟨[], by simp, .inl ⟨es, rfl, rfl⟩⟩
      · obtain ⟨g, hg, h⟩ := ih
        have hb' : b ≠ Config.markerHi := hb
        refine ⟨b :: g, by simp; exact ⟨hb, fun a ha => hg a ha⟩, ?_⟩
        have hh : huntRun (.byte b :: es) = huntRun es := by simp [huntRun, hb']
        rw [hh]
        obtain ⟨es', h1, h2⟩ | ⟨o, r, h1, h2⟩ := h
        · exact .inl ⟨es', h1, by rw [h2]; rfl⟩
        · exact .inr ⟨o, r, h1, h2.app [b]⟩
    · exact ⟨[], by simp, .inr ⟨_, _, rfl, .timeout _ rfl⟩⟩
    · exact ⟨[], by simp, .inr ⟨_, _, rfl, .error _ rfl⟩⟩

/-- R144, R148, R152, R153: everything accumulating `n` more bytes can do. -/
theorem collect_cases (n : Nat) : ∀ es : List LineEvent, ∃ bs : List Byte,
   ((∃ es', collect n es = .ok (bs, es') ∧ bs.length = n ∧ es = bs.map LineEvent.byte ++ es') ∨ (∃ o r, collect n es = .error (o, r) ∧ bs.length < n ∧ Fails es bs o r)) := by
  induction n with
  | zero => intro es; exact ⟨[], .inl ⟨es, by cases es <;> rfl, rfl, rfl⟩⟩
  | succ n ih =>
    intro es
    rcases es with _ | ⟨b | _ | _, es⟩
    · exact ⟨[], .inr ⟨_, _, rfl, by simp, .eof rfl⟩⟩
    · obtain ⟨bs, ⟨es', h1, h2, h3⟩ | ⟨o, r, h1, h2, h3⟩⟩ := ih es
      · exact ⟨b :: bs, .inl ⟨es', by simp [collect, h1], by simp [h2], by simp [h3]⟩⟩
      · exact ⟨b :: bs, .inr ⟨o, r, by simp [collect, h1], by simp [h2], h3.app [b]⟩⟩
    · exact ⟨[], .inr ⟨_, _, rfl, by simp, .timeout _ rfl⟩⟩
    · exact ⟨[], .inr ⟨_, _, rfl, by simp, .error _ rfl⟩⟩

/-- Two bytes or more end in two bytes. -/
theorem exists_last_two (tail : List Byte) (h : 2 ≤ tail.length) : ∃ p ch cl, tail = p ++ [ch, cl] := by
  obtain ⟨p, cl, rfl⟩ := List.eq_nil_or_concat tail |>.resolve_left (by rintro rfl; simp at h)
  obtain ⟨p', ch, rfl⟩ := List.eq_nil_or_concat p |>.resolve_left (by rintro rfl; simp at h)
  exact ⟨p', ch, cl, by simp⟩

/-- R142: discarded bytes leave no trace. -/
theorem huntRun_discards (g : List Byte) (hg : ∀ b ∈ g, b ≠ 0xEF) (es : List LineEvent) : huntRun (g.map LineEvent.byte ++ es) = huntRun es := by
  induction g with
  | nil => rfl
  | cons b g ih =>
    have : b ≠ Config.markerHi := hg b (by simp)
    simp [huntRun, this]; exact ih (fun x hx => hg x (by simp [hx]))
/-- R144, R148: bytes that are there are accumulated. -/
theorem collect_bytes (bs : List Byte) (es : List LineEvent) : collect bs.length (bs.map LineEvent.byte ++ es) = .ok (bs, es) := by
  induction bs with
  | nil => cases es <;> rfl
  | cons b bs ih => simp [collect, ih]

end Sys2Proof.Machine
end

