-- ==== Sys2Proof/Laws/State.lean ====
section
/-! SUPPORT. The updates of the state, field by field. -/

namespace Sys2Proof.Machine

@[simp] theorem State.setRx_par (s : State) (r : Rx) : (s.setRx r).par = s.par := rfl
@[simp] theorem State.setRx_rx (s : State) (r : Rx) : (s.setRx r).rx = r := rfl
@[simp] theorem State.setRx_tx (s : State) (r : Rx) : (s.setRx r).tx = s.tx := rfl
@[simp] theorem State.setRx_line (s : State) (r : Rx) : (s.setRx r).line = s.line := rfl
@[simp] theorem State.setRx_host (s : State) (r : Rx) : (s.setRx r).host = s.host := rfl

@[simp] theorem State.setTx_par (s : State) (t : Tx) : (s.setTx t).par = s.par := rfl
@[simp] theorem State.setTx_rx (s : State) (t : Tx) : (s.setTx t).rx = s.rx := rfl
@[simp] theorem State.setTx_tx (s : State) (t : Tx) : (s.setTx t).tx = t := rfl
@[simp] theorem State.setTx_line (s : State) (t : Tx) : (s.setTx t).line = s.line := rfl
@[simp] theorem State.setTx_host (s : State) (t : Tx) : (s.setTx t).host = s.host := rfl

@[simp] theorem State.setLine_par (s : State) (l : Line) : (s.setLine l).par = s.par := rfl
@[simp] theorem State.setLine_rx (s : State) (l : Line) : (s.setLine l).rx = s.rx := rfl
@[simp] theorem State.setLine_tx (s : State) (l : Line) : (s.setLine l).tx = s.tx := rfl
@[simp] theorem State.setLine_line (s : State) (l : Line) : (s.setLine l).line = l := rfl
@[simp] theorem State.setLine_host (s : State) (l : Line) : (s.setLine l).host = s.host := rfl

@[simp] theorem State.setHost_par (s : State) (h : HostSide) : (s.setHost h).par = s.par := rfl
@[simp] theorem State.setHost_rx (s : State) (h : HostSide) : (s.setHost h).rx = s.rx := rfl
@[simp] theorem State.setHost_tx (s : State) (h : HostSide) : (s.setHost h).tx = s.tx := rfl
@[simp] theorem State.setHost_line (s : State) (h : HostSide) : (s.setHost h).line = s.line := rfl
@[simp] theorem State.setHost_host (s : State) (h : HostSide) : (s.setHost h).host = h := rfl

@[simp] theorem Rx.idleWith_state (o : RxRes) : (Rx.idleWith o).state = .idle := rfl
@[simp] theorem Rx.idleWith_buf (o : RxRes) : (Rx.idleWith o).buf = [] := rfl
@[simp] theorem Rx.idleWith_cnt (o : RxRes) : (Rx.idleWith o).cnt = 0 := rfl
@[simp] theorem Rx.idleWith_len (o : RxRes) : (Rx.idleWith o).len = 0 := rfl
@[simp] theorem Rx.idleWith_sum (o : RxRes) : (Rx.idleWith o).sum = 0 := rfl
@[simp] theorem Rx.idleWith_res (o : RxRes) : (Rx.idleWith o).res = o := rfl
@[simp] theorem Tx.idleWith_state (o : TxRes) : (Tx.idleWith o).state = .idle := rfl
@[simp] theorem Tx.idleWith_buf (o : TxRes) : (Tx.idleWith o).buf = [] := rfl
@[simp] theorem Tx.idleWith_idx (o : TxRes) : (Tx.idleWith o).idx = 0 := rfl
@[simp] theorem Tx.idleWith_res (o : TxRes) : (Tx.idleWith o).res = o := rfl

@[simp] theorem State.refuse_par (s : State) (w : OpRefusal) : (s.refuse w).par = s.par := rfl
@[simp] theorem State.refuse_rx (s : State) (w : OpRefusal) : (s.refuse w).rx = s.rx := rfl
@[simp] theorem State.refuse_tx (s : State) (w : OpRefusal) : (s.refuse w).tx = s.tx := rfl
@[simp] theorem State.refuse_line (s : State) (w : OpRefusal) : (s.refuse w).line = s.line := rfl
@[simp] theorem State.refuse_conn (s : State) (w : OpRefusal) : (s.refuse w).host.conn = s.host.conn := rfl
@[simp] theorem State.refuse_refusal (s : State) (w : OpRefusal) : (s.refuse w).host.refusal = some w := rfl

@[simp] theorem State.raiseRx_par (s : State) (k : Kind) (c : Cause) : (s.raiseRx k c).par = s.par := rfl
@[simp] theorem State.raiseRx_rx (s : State) (k : Kind) (c : Cause) :
    (s.raiseRx k c).rx = Rx.idleWith (.err k c) := rfl
@[simp] theorem State.raiseRx_tx (s : State) (k : Kind) (c : Cause) : (s.raiseRx k c).tx = s.tx := rfl
@[simp] theorem State.raiseRx_line (s : State) (k : Kind) (c : Cause) : (s.raiseRx k c).line = s.line := rfl
@[simp] theorem State.raiseRx_host (s : State) (k : Kind) (c : Cause) : (s.raiseRx k c).host = s.host := rfl

@[simp] theorem State.raiseTx_par (s : State) : s.raiseTx.par = s.par := rfl
@[simp] theorem State.raiseTx_rx (s : State) : s.raiseTx.rx = s.rx := rfl
@[simp] theorem State.raiseTx_tx (s : State) : s.raiseTx.tx = Tx.idleWith (.err .cantWrite .none) := rfl
@[simp] theorem State.raiseTx_line (s : State) : s.raiseTx.line = s.line := rfl
@[simp] theorem State.raiseTx_host (s : State) : s.raiseTx.host = s.host := rfl

@[simp] theorem State.accept_par (s : State) : s.accept.par = s.par := rfl
@[simp] theorem State.accept_rx (s : State) : s.accept.rx = s.rx := rfl
@[simp] theorem State.accept_tx (s : State) : s.accept.tx = s.tx := rfl
@[simp] theorem State.accept_line (s : State) : s.accept.line = s.line := rfl
@[simp] theorem State.accept_conn (s : State) : s.accept.host.conn = s.host.conn := rfl

@[simp] theorem State.loadFrame_par (s : State) (t : Byte) (p : List Byte) : (s.loadFrame t p).par = s.par := rfl
@[simp] theorem State.loadFrame_rx (s : State) (t : Byte) (p : List Byte) : (s.loadFrame t p).rx = s.rx := rfl
@[simp] theorem State.loadFrame_tx (s : State) (t : Byte) (p : List Byte) :
    (s.loadFrame t p).tx = { state := .send, buf := frame t p, idx := 0, res := .none } := rfl
@[simp] theorem State.loadFrame_line (s : State) (t : Byte) (p : List Byte) : (s.loadFrame t p).line = s.line := rfl
@[simp] theorem State.loadFrame_host (s : State) (t : Byte) (p : List Byte) :
    (s.loadFrame t p).host = { s.host with task := .none, refusal := none } := rfl

@[simp] theorem State.startHunt_par (s : State) : s.startHunt.par = s.par := rfl
@[simp] theorem State.startHunt_rx (s : State) :
    s.startHunt.rx = { state := .hunt, buf := [], cnt := 0, len := 0, sum := 0, res := .none } := rfl
@[simp] theorem State.startHunt_tx (s : State) : s.startHunt.tx = s.tx := rfl
@[simp] theorem State.startHunt_line (s : State) : s.startHunt.line = s.line := rfl
@[simp] theorem State.startHunt_host (s : State) :
    s.startHunt.host = { s.host with task := .none, refusal := none } := rfl

@[simp] theorem State.resetFramer_par (s : State) : s.resetFramer.par = s.par := rfl
@[simp] theorem State.resetFramer_rx (s : State) : s.resetFramer.rx = Rx.idleWith .none := rfl
@[simp] theorem State.resetFramer_tx (s : State) : s.resetFramer.tx = Tx.idleWith .none := rfl
@[simp] theorem State.resetFramer_line (s : State) : s.resetFramer.line = s.line := rfl
@[simp] theorem State.resetFramer_conn (s : State) : s.resetFramer.host.conn = s.host.conn := rfl

@[simp] theorem State.finish_par (s : State) (o : HostOut) : (s.finish o).par = s.par := rfl
@[simp] theorem State.finish_rx (s : State) (o : HostOut) : (s.finish o).rx = s.rx := rfl
@[simp] theorem State.finish_tx (s : State) (o : HostOut) : (s.finish o).tx = s.tx := rfl
@[simp] theorem State.finish_line (s : State) (o : HostOut) : (s.finish o).line = s.line := rfl
@[simp] theorem State.finish_conn (s : State) (o : HostOut) : (s.finish o).host.conn = s.host.conn := rfl
@[simp] theorem State.finish_out (s : State) (o : HostOut) : (s.finish o).host.out = o := rfl

@[simp] theorem State.connected_par (s : State) : s.connected.par = s.par := rfl
@[simp] theorem State.connected_rx (s : State) : s.connected.rx = s.rx := rfl
@[simp] theorem State.connected_tx (s : State) : s.connected.tx = s.tx := rfl
@[simp] theorem State.connected_line (s : State) : s.connected.line = s.line := rfl
@[simp] theorem State.connected_conn (s : State) : s.connected.host.conn = .connected := rfl

@[simp] theorem State.callClose_par (s : State) : s.callClose.par = s.par := rfl
@[simp] theorem State.callClose_rx (s : State) : s.callClose.rx = s.rx := rfl
@[simp] theorem State.callClose_tx (s : State) : s.callClose.tx = s.tx := rfl
@[simp] theorem State.callClose_line (s : State) : s.callClose.line = s.line.disconnect := rfl
@[simp] theorem State.callClose_conn (s : State) : s.callClose.host.conn = .disconnected := rfl
@[simp] theorem State.callClose_task (s : State) : s.callClose.host.task = .none := rfl

@[simp] theorem State.append_par (s : State) (b : Byte) : (s.append b).par = s.par := rfl
@[simp] theorem State.append_rx (s : State) (b : Byte) :
    (s.append b).rx = { s.rx with buf := s.rx.buf ++ [b], cnt := s.rx.cnt + 1 } := rfl
@[simp] theorem State.append_tx (s : State) (b : Byte) : (s.append b).tx = s.tx := rfl
@[simp] theorem State.append_line (s : State) (b : Byte) : (s.append b).line = s.line := rfl
@[simp] theorem State.append_host (s : State) (b : Byte) : (s.append b).host = s.host := rfl

/-- Two states with equal fields are equal. -/
theorem State.ext' {s t : State} (hp : s.par = t.par) (hr : s.rx = t.rx) (ht : s.tx = t.tx) (hl : s.line = t.line)
    (hh : s.host = t.host) : s = t := by
  cases s; cases t; cases hp; cases hr; cases ht; cases hl; cases hh; rfl

/-- R31: BUSY is false exactly when both halves are IDLE. -/
theorem State.busy_eq_false_iff (s : State) : s.busy = false ↔ s.rx.state = .idle ∧ s.tx.state = .idle := by
  simp [State.busy, State.rxBusy, State.txBusy]

/-- R31: BUSY is true exactly when one half is not IDLE. -/
theorem State.busy_eq_true_iff (s : State) : s.busy = true ↔ s.rx.state ≠ .idle ∨ s.tx.state ≠ .idle := by
  simp [State.busy, State.rxBusy, State.txBusy]

/-- R31 -/
theorem State.txBusy_eq_true_iff (s : State) : s.txBusy = true ↔ s.tx.state ≠ .idle := by
  simp [State.txBusy]

/-- R31 -/
theorem State.rxBusy_eq_true_iff (s : State) : s.rxBusy = true ↔ s.rx.state ≠ .idle := by
  simp [State.rxBusy]

/-- The host waits exactly when its task is not `none`. -/
theorem State.waiting_eq_false_iff (s : State) : s.waiting = false ↔ s.host.task = .none := by
  simp [State.waiting]

end Sys2Proof.Machine
end

