-- ==== Sys2Proof/Laws/Transport.lean ====
section
/-! SUPPORT. Everything a transport primitive can do, once each. -/

namespace Sys2Proof.Machine

/-- A read that fails takes some of the oldest entries, and changes nothing else but the counter. -/
theorem Line.readFailed_spec (l : Line) : ∃ k n, l.readFailed = { l with lineIn := l.lineIn.drop k, tick := n } := by
  rcases l with ⟨o, _ | _, lineIn, as, os, sb, ea, lo, n⟩
  · exact ⟨0, n, rfl⟩
  · exact ⟨_, n + 1, rfl⟩

/-- A read takes at most the oldest answer of the schedule, unless it fails, and changes nothing else but the
counter. -/
theorem Line.read_spec (l : Line) :
    ∃ k n, l.read.2 = { l with lineIn := l.lineIn.drop k, tick := n } ∧ (k ≤ 1 ∨ l.read.1 = .error) := by
  rcases l with ⟨_ | _, kind, lineIn, as, os, sb, ea, lo, n⟩
  · obtain ⟨k, m, h⟩ := Line.readFailed_spec ⟨false, kind, lineIn, as, os, sb, ea, lo, n⟩
    exact ⟨k, m, h, .inr rfl⟩
  · rcases lineIn with _ | ⟨e, es⟩
    · cases kind
      · exact ⟨0, n, rfl, .inl (by simp)⟩
      · exact ⟨0, n + 1, rfl, .inl (by simp)⟩
    · cases e with
      | byte b => exact ⟨1, n, rfl, .inl (by simp)⟩
      | timeout => exact ⟨1, n, rfl, .inl (by simp)⟩
      | error =>
        obtain ⟨k, m, h⟩ := Line.readFailed_spec ⟨true, kind, es, as, os, sb, ea, lo, n⟩
        exact ⟨k + 1, m, h, .inr rfl⟩

/-- R55: a scheduled answer of an open transport, but for the oracle's `Error`. -/
theorem Line.read_of_cons {l : Line} {e : LineEvent} {es : List LineEvent} (ho : l.isOpen = true)
    (h : l.lineIn = e :: es) (he : e ≠ .error ∨ l.kind = .reference) : l.read = (e, { l with lineIn := es }) := by
  rcases l with ⟨_, kind, _, as, os, sb, ea, lo, n⟩
  cases ho; cases h
  cases e with
  | byte b => rfl
  | timeout => rfl
  | error =>
    obtain he | rfl := he
    · exact absurd rfl he
    · rfl

/-- R57: the reference transport past its schedule. -/
theorem Line.read_of_nil {l : Line} (ho : l.isOpen = true) (hk : l.kind = .reference) (h : l.lineIn = []) :
    l.read = (.timeout, l) := by
  rcases l with ⟨_, kind, _, as, os, sb, ea, lo, n⟩
  cases ho; cases h; cases hk; rfl

/-- An answer to a write or flush takes at most the oldest answer of the schedule. -/
theorem Line.answer_spec (l : Line) : ∃ as n, l.answer.2 = { l with answers := as, tick := n } := by
  rcases l with ⟨_ | _, kind, lineIn, as, os, sb, ea, lo, n⟩
  · exact ⟨as, n, rfl⟩
  · cases kind
    · exact ⟨as, n, rfl⟩
    · rcases as with _ | ⟨a, as⟩
      · exact ⟨[], n + 1, rfl⟩
      · exact ⟨as, n, rfl⟩

/-- A scheduled answer of an open oracle. -/
theorem Line.answer_of_cons {l : Line} {a : Bool} {as : List Bool} (ho : l.isOpen = true) (hk : l.kind = .oracle)
    (h : l.answers = a :: as) : l.answer = (a, { l with answers := as }) := by
  rcases l with ⟨_, _, lineIn, _, os, sb, lo, n⟩
  cases ho; cases hk; cases h; rfl

/-- R57: the reference transport always answers `Ok`. -/
theorem Line.answer_reference {l : Line} (ho : l.isOpen = true) (hk : l.kind = .reference) : l.answer = (true, l) := by
  rcases l with ⟨_, _, lineIn, _, os, sb, lo, n⟩
  cases ho; cases hk; rfl

@[simp] theorem Line.runAhead_lineIn (l : Line) (n : Nat) : (l.runAhead n).lineIn = l.lineIn := rfl
@[simp] theorem Line.runAhead_sendBuf (l : Line) (n : Nat) : (l.runAhead n).sendBuf = l.sendBuf := rfl

/-- Running ahead of the flush changes neither which bytes are bound for the line nor their order. -/
theorem Line.runAhead_bound (l : Line) (n : Nat) :
    (l.runAhead n).lineOut ++ (l.runAhead n).sendBuf.drop (l.runAhead n).early = l.lineOut ++ l.sendBuf.drop l.early := by
  rcases l with ⟨_, _, _, _, _, sb, e, lo, _⟩
  simp only [Line.runAhead, List.append_assoc, List.append_cancel_left_eq]
  apply List.ext_getElem?
  intro i
  simp only [List.getElem?_append, List.length_drop, List.length_take, List.getElem?_drop, List.getElem?_take]
  split
  · rw [if_pos (by omega)]
  · congr 1; omega

/-- A write leaves the line-in stream alone and only adds to what is on the line. -/
theorem Line.write_spec (l : Line) (b : Byte) :
    ∃ as n sb e bs,
      (l.write b).2 = { l with answers := as, tick := n, sendBuf := sb, early := e, lineOut := l.lineOut ++ bs } := by
  obtain ⟨as, n, h⟩ := l.answer_spec
  unfold Line.write
  rcases hA : l.answer with ⟨_ | _, l'⟩
  · rw [hA] at h; dsimp only at h; subst h
    exact ⟨as, n + 1, [], 0, _, rfl⟩
  · rw [hA] at h; dsimp only at h; subst h
    rcases hk : l.kind
    · exact ⟨as, n, l.sendBuf, l.early, [b], by simp⟩
    · exact ⟨as, n + 1, l.sendBuf ++ [b], _, _, rfl⟩

/-- A flush leaves the line-in stream alone, empties the send buffer and only adds to what is on the line. -/
theorem Line.flush_spec (l : Line) :
    ∃ as n bs,
      l.flush.2 = { l with answers := as, tick := n, sendBuf := [], early := 0, lineOut := l.lineOut ++ bs } := by
  obtain ⟨as, n, h⟩ := l.answer_spec
  unfold Line.flush
  rcases hA : l.answer with ⟨_ | _, l'⟩
  · rw [hA] at h; dsimp only at h; subst h
    exact ⟨as, n + 1, _, rfl⟩
  · rw [hA] at h; dsimp only at h; subst h
    exact ⟨as, n, _, rfl⟩

/-- `connect()` of the transport touches no stream. -/
theorem Line.connect_spec (l : Line) : ∃ o os n, l.connect.2 = { l with isOpen := o, opens := os, tick := n } := by
  rcases l with ⟨o, kind, lineIn, as, os, sb, ea, lo, n⟩
  rcases os with _ | ⟨a, os⟩
  · cases kind
    · exact ⟨true, [], n, rfl⟩
    · exact ⟨_, [], n + 1, rfl⟩
  · exact ⟨_, os, n, rfl⟩

@[simp] theorem Line.deliver_lineIn (l : Line) (bs : List Byte) :
    (l.deliver bs).lineIn = l.lineIn ++ bs.map LineEvent.byte := rfl
@[simp] theorem Line.deliver_lineOut (l : Line) (bs : List Byte) : (l.deliver bs).lineOut = l.lineOut := rfl
@[simp] theorem Line.deliver_sendBuf (l : Line) (bs : List Byte) : (l.deliver bs).sendBuf = l.sendBuf := rfl
@[simp] theorem Line.deliver_early (l : Line) (bs : List Byte) : (l.deliver bs).early = l.early := rfl
@[simp] theorem Line.disconnect_early (l : Line) : l.disconnect.early = l.early := rfl
@[simp] theorem Line.disconnect_lineIn (l : Line) : l.disconnect.lineIn = l.lineIn := rfl
@[simp] theorem Line.disconnect_lineOut (l : Line) : l.disconnect.lineOut = l.lineOut := rfl
@[simp] theorem Line.disconnect_sendBuf (l : Line) : l.disconnect.sendBuf = l.sendBuf := rfl

end Sys2Proof.Machine
end

