-- ==== Sys2Proof/Laws/Ops.lean ====
section
/-! SUPPORT. Everything a shared operation, a meaning of an instruction and a move of the host can do: one lemma each.
`HostEffect` says what all moves outside the two sequencers have in common. -/

namespace Sys2Proof.Machine

/-- What a move of the host can do to the two halves: nothing; load a frame or start a hunt, when not BUSY; reset. -/
inductive FramerEffect (s s' : State) : Prop where
  | same (hr : s'.rx = s.rx) (ht : s'.tx = s.tx)
  | load (hb : s.busy = false) (hr : s'.rx = s.rx) (t : Byte) (p : List Byte) (hp : p.length ≤ 65533)
      (ht : s'.tx = { state := .send, buf := frame t p, idx := 0, res := .none })
  | hunt (hb : s.busy = false) (ht : s'.tx = s.tx)
      (hr : s'.rx = { state := .hunt, buf := [], cnt := 0, len := 0, sum := 0, res := .none })
  | reset (hr : s'.rx = Rx.idleWith .none) (ht : s'.tx = Tx.idleWith .none)

/-- What a move of the host can do. -/
structure HostEffect (s s' : State) : Prop where
  par : s'.par = s.par
  framer : FramerEffect s s'
  lineIn : ∃ bs : List Byte, s'.line.lineIn = s.line.lineIn ++ bs.map LineEvent.byte
  lineOut : s'.line.lineOut = s.line.lineOut
  sendBuf : s'.line.sendBuf = s.line.sendBuf
  early : s'.line.early = s.line.early

/-- A move that touches the host only. -/
theorem HostEffect.ofHost {s s' : State} (hp : s'.par = s.par) (hr : s'.rx = s.rx) (ht : s'.tx = s.tx)
    (hl : s'.line = s.line) : HostEffect s s' :=
  ⟨hp, .same hr ht, ⟨[], by simp [hl]⟩, by rw [hl], by rw [hl], by rw [hl]⟩

/-- Host fields set before or after a move do not matter to its effect. -/
theorem HostEffect.congr {s t s' t' : State} (h : HostEffect s s') (hp : t.par = s.par) (hr : t.rx = s.rx)
    (ht : t.tx = s.tx) (hl : t.line.lineIn = s.line.lineIn ∧ t.line.lineOut = s.line.lineOut ∧
      t.line.sendBuf = s.line.sendBuf ∧ t.line.early = s.line.early)
    (hp' : t'.par = s'.par) (hr' : t'.rx = s'.rx) (ht' : t'.tx = s'.tx) (hl' : t'.line = s'.line) :
    HostEffect t t' := by
  obtain ⟨h1, h2, h3, h4, h5, h6⟩ := h
  obtain ⟨l1, l2, l3, l4⟩ := hl
  have hb : t.busy = s.busy := by simp [State.busy, State.rxBusy, State.txBusy, hr, ht]
  refine ⟨by rw [hp', h1, hp], ?_, by simpa [hl', l1] using h3, by rw [hl', h4, l2], by rw [hl', h5, l3],
    by rw [hl', h6, l4]⟩
  cases h2 with
  | same a b => exact .same (by rw [hr', a, hr]) (by rw [ht', b, ht])
  | load b a u p q c => exact .load (by rw [hb, b]) (by rw [hr', a, hr]) u p q (by rw [ht', c])
  | hunt b a c => exact .hunt (by rw [hb, b]) (by rw [ht', a, ht]) (by rw [hr', c])
  | reset a b => exact .reset (by rw [hr', a]) (by rw [ht', b])

/-- R120, R126, R128: why an `ENCODE` is refused. -/
theorem State.encodeRefusal_cases (s : State) (p : List Byte) :
    (s.busy = true ∧ s.encodeRefusal p = some .busy) ∨
    (s.busy = false ∧ 65533 < p.length ∧ s.encodeRefusal p = some .txTooLong) ∨
    (s.busy = false ∧ p.length ≤ 65533 ∧ s.encodeRefusal p = none) := by
  unfold State.encodeRefusal
  rcases hb : s.busy
  · by_cases hp : p.length > Config.maxPayload
    · exact .inr (.inl ⟨rfl, hp, by simp [hp]⟩)
    · exact .inr (.inr ⟨rfl, by simpa [Config.maxPayload] using hp, by simp [hp]⟩)
  · exact .inl ⟨rfl, by simp⟩

/-- R120: everything issuing an `ENCODE` can do. -/
theorem State.issueEncode_cases (s : State) (t : Byte) (p : List Byte) :
    (∃ w, s.issueEncode t p = s.refuse w) ∨
    (s.busy = false ∧ p.length ≤ 65533 ∧ s.issueEncode t p = s.loadFrame t p) := by
  unfold State.issueEncode
  obtain ⟨_, h⟩ | ⟨_, _, h⟩ | ⟨hb, hp, h⟩ := s.encodeRefusal_cases p
  · exact .inl ⟨_, by rw [h]⟩
  · exact .inl ⟨_, by rw [h]⟩
  · exact .inr ⟨hb, hp, by rw [h]⟩

/-- R181: everything beginning an exchange can do. -/
theorem State.beginExchange_cases (s : State) (g : Goal) (t : Byte) (p : List Byte) :
    (∃ w, s.beginExchange g t p = s.refuse w) ∨
    (s.busy = false ∧ p.length ≤ 65533 ∧
      s.beginExchange g t p =
        (s.loadFrame t p).setHost { s.host with task := .sending g, refusal := none, out := .none }) := by
  unfold State.beginExchange
  obtain ⟨_, h⟩ | ⟨_, _, h⟩ | ⟨hb, hp, h⟩ := s.encodeRefusal_cases p
  · exact .inl ⟨_, by rw [h]⟩
  · exact .inl ⟨_, by rw [h]⟩
  · exact .inr ⟨hb, hp, by rw [h]; rfl⟩

theorem State.refuse_effect (s : State) (w : OpRefusal) : HostEffect s (s.refuse w) := .ofHost rfl rfl rfl rfl

theorem State.loadFrame_effect {s : State} (hb : s.busy = false) (t : Byte) {p : List Byte} (hp : p.length ≤ 65533) :
    HostEffect s (s.loadFrame t p) :=
  ⟨rfl, .load hb rfl t p hp rfl, ⟨[], by simp⟩, rfl, rfl, rfl⟩

theorem State.issueEncode_effect (s : State) (t : Byte) (p : List Byte) : HostEffect s (s.issueEncode t p) := by
  obtain ⟨w, h⟩ | ⟨hb, hp, h⟩ := s.issueEncode_cases t p <;> rw [h]
  · exact s.refuse_effect w
  · exact State.loadFrame_effect hb t hp

theorem State.beginExchange_effect (s : State) (g : Goal) (t : Byte) (p : List Byte) :
    HostEffect s (s.beginExchange g t p) := by
  obtain ⟨w, h⟩ | ⟨hb, hp, h⟩ := s.beginExchange_cases g t p <;> rw [h]
  · exact s.refuse_effect w
  · exact (State.loadFrame_effect hb t hp).congr rfl rfl rfl ⟨rfl, rfl, rfl, rfl⟩ rfl rfl rfl rfl

theorem State.issueDecode_effect (s : State) : HostEffect s s.issueDecode := by
  unfold State.issueDecode
  split
  · exact s.refuse_effect _
  · exact ⟨rfl, .hunt (by simp_all) rfl rfl, ⟨[], by simp⟩, rfl, rfl, rfl⟩

theorem State.resetFramer_effect (s : State) : HostEffect s s.resetFramer :=
  ⟨rfl, .reset rfl rfl, ⟨[], by simp⟩, rfl, rfl, rfl⟩

theorem State.handleFrame_effect (s : State) (t : Byte) (f : FrameForm) : HostEffect s (s.handleFrame t f) := by
  cases f with
  | send p => exact s.issueEncode_effect t p
  | recv a n b => exact ⟨rfl, .same rfl rfl, ⟨image t a n b, rfl⟩, rfl, rfl, rfl⟩

/-- The meaning of every instruction ends in a next state, and everything it can do is a host effect. -/
theorem exec_next (i : Instr) (s : State) : ∃ s', exec i s = .next s' ∧ HostEffect s s' := by
  cases i <;>
    first
    | exact ⟨_, rfl, State.issueEncode_effect ..⟩
    | exact ⟨_, rfl, State.issueDecode_effect ..⟩
    | exact ⟨_, rfl, State.resetFramer_effect ..⟩
    | exact ⟨_, rfl, State.beginExchange_effect ..⟩
    | exact ⟨_, rfl, State.handleFrame_effect ..⟩

/-! ## The host's moves -/

theorem State.finish_effect (s : State) (o : HostOut) : HostEffect s (s.finish o) := .ofHost rfl rfl rfl rfl

theorem State.goOn_effect (s : State) (g : Goal) (t : Byte) (p : List Byte) : HostEffect s (s.goOn g t p) := by
  unfold State.goOn
  split
  · exact .ofHost rfl rfl rfl rfl
  · exact s.beginExchange_effect g t p

theorem State.awaitReply_effect (s : State) (g : Goal) : HostEffect s (s.awaitReply g) :=
  s.issueDecode_effect.congr rfl rfl rfl ⟨rfl, rfl, rfl, rfl⟩ rfl rfl rfl rfl

theorem State.sendChunk_effect (s : State) (r : List Byte) (pos : Word16) : HostEffect s (s.sendChunk r pos) := by
  cases r <;> exact s.goOn_effect ..

theorem afterSent_effect (g : Goal) (s : State) : HostEffect s (afterSent g s) := by
  cases g <;> first | exact s.awaitReply_effect _ | exact s.sendChunk_effect _ _

theorem onOk_effect (r : List Byte) {s f : State} (h : HostEffect s f) : HostEffect s (onOk r s f) := by
  unfold onOk
  split
  · exact h
  · exact s.finish_effect _

theorem afterReply_effect (g : Goal) (r : List Byte) (s : State) : HostEffect s (afterReply g r s) := by
  cases g <;> simp only [afterReply] <;> repeat' split
  all_goals
    first
    | exact onOk_effect r (s.finish_effect _)
    | exact onOk_effect r (s.goOn_effect ..)
    | exact onOk_effect r (s.awaitReply_effect _)
    | exact onOk_effect r (s.sendChunk_effect ..)
    | exact s.finish_effect _
    | exact s.awaitReply_effect _
    | exact .ofHost rfl rfl rfl rfl

/-- Everything the host's move inside an exchange can do. -/
theorem taskStep_effect (s : State) : HostEffect s (taskStep s) := by
  unfold taskStep
  repeat' split
  all_goals
    first
    | exact .ofHost rfl rfl rfl rfl
    | exact afterSent_effect ..
    | exact afterReply_effect ..

theorem State.callConnect_effect (s : State) : HostEffect s s.callConnect := by
  obtain ⟨o, os, n, h⟩ := s.line.connect_spec
  unfold State.callConnect
  rcases hc : s.line.connect with ⟨_ | _, l⟩
  · rw [hc] at h; dsimp only at h; subst h
    exact ⟨rfl, .same rfl rfl, ⟨[], by simp⟩, rfl, rfl, rfl⟩
  · rw [hc] at h; dsimp only at h; subst h
    exact HostEffect.congr (s := s.setLine { s.line with isOpen := o, opens := os, tick := n })
      (State.beginExchange_effect _ .handshake Config.tCmd verifyPayload) rfl rfl rfl ⟨rfl, rfl, rfl, rfl⟩ rfl rfl rfl rfl

theorem State.oneAtATime_effect {s f : State} (h : HostEffect s f) : HostEffect s (s.oneAtATime f) := by
  unfold State.oneAtATime
  split
  · exact s.refuse_effect _
  · exact h

theorem State.gated_effect {s f : State} (h : HostEffect s f) : HostEffect s (s.gated f) := by
  apply State.oneAtATime_effect
  split
  · exact h
  · exact s.refuse_effect _

/-- R195: everything `close()` does. -/
theorem State.callClose_effect (s : State) : HostEffect s s.callClose :=
  ⟨rfl, .same rfl rfl, ⟨[], by simp [State.callClose]⟩, rfl, rfl, rfl⟩

/-- Everything the beginning of a session call can do. -/
theorem startCall_effect (c : Call) (s : State) : HostEffect s (startCall c s) := by
  unfold startCall
  cases c <;> dsimp only
  case connect => exact State.oneAtATime_effect s.callConnect_effect
  case close => exact s.callClose_effect
  all_goals apply State.gated_effect
  all_goals first | exact s.beginExchange_effect .. | skip
  all_goals
    split
    · exact s.beginExchange_effect ..
    · exact s.refuse_effect _

end Sys2Proof.Machine
end

