-- ==== Sys2Proof/Laws/PerInstr.lean ====
section
/-! SUPPORT. Statements about every instruction as syntax, one lemma per constructor. `EncodeNonempty`: no instruction
word is empty, so that the host's stream of operations is used up word by word. -/

namespace Sys2Proof.Laws.EncodeNonempty

open Sys2Proof

/-- The instruction word of `i` has a first byte. -/
def Statement (i : Instr) : Prop := Sys2Proof.encode i ≠ []

/-- A frame's word begins with the byte that says which way it goes. -/
theorem frameForm_ne (t : Byte) (f : FrameForm) : Encode.frameForm t f ≠ [] := by
  cases f <;> simp [Encode.frameForm]

theorem encode (t : Byte) (p : List Byte) : Statement (.encode t p) := fun h => by cases h
theorem decode : Statement .decode := by unfold Statement; decide
theorem reset : Statement .reset := by unfold Statement; decide
theorem exchange (t : Byte) (p : List Byte) : Statement (.exchange t p) := fun h => by cases h
theorem cmd (p : List Byte) : Statement (.cmd p) := fun h => by cases h
theorem data (p : List Byte) : Statement (.data p) := fun h => by cases h
theorem endData (p : List Byte) : Statement (.endData p) := fun h => by cases h
theorem verifyPwd : Statement .verifyPwd := by unfold Statement; decide
theorem getImage : Statement .getImage := by unfold Statement; decide
theorem empty : Statement .empty := by unfold Statement; decide
theorem readParams : Statement .readParams := by unfold Statement; decide
theorem setSecurity (n : Byte) : Statement (.setSecurity n) := fun h => by cases h
theorem frameCmd (f : FrameForm) : Statement (.frameCmd f) := frameForm_ne _ _
theorem frameData (f : FrameForm) : Statement (.frameData f) := frameForm_ne _ _
theorem frameAck (f : FrameForm) : Statement (.frameAck f) := frameForm_ne _ _
theorem frameEnd (f : FrameForm) : Statement (.frameEnd f) := frameForm_ne _ _
theorem frameOther (t : Byte) (f : FrameForm) : Statement (.frameOther t f) := frameForm_ne _ _
theorem opcGetImage (f : FrameForm) : Statement (.opcGetImage f) := frameForm_ne _ _
theorem opcImg2Tz (f : FrameForm) : Statement (.opcImg2Tz f) := frameForm_ne _ _
theorem opcHsSearch (f : FrameForm) : Statement (.opcHsSearch f) := frameForm_ne _ _
theorem opcRegModel (f : FrameForm) : Statement (.opcRegModel f) := frameForm_ne _ _
theorem opcStore (f : FrameForm) : Statement (.opcStore f) := frameForm_ne _ _
theorem opcLoad (f : FrameForm) : Statement (.opcLoad f) := frameForm_ne _ _
theorem opcUpload (f : FrameForm) : Statement (.opcUpload f) := frameForm_ne _ _
theorem opcDownload (f : FrameForm) : Statement (.opcDownload f) := frameForm_ne _ _
theorem opcDelete (f : FrameForm) : Statement (.opcDelete f) := frameForm_ne _ _
theorem opcEmpty (f : FrameForm) : Statement (.opcEmpty f) := frameForm_ne _ _
theorem opcSetParam (f : FrameForm) : Statement (.opcSetParam f) := frameForm_ne _ _
theorem opcReadParams (f : FrameForm) : Statement (.opcReadParams f) := frameForm_ne _ _
theorem opcVerifyPwd (f : FrameForm) : Statement (.opcVerifyPwd f) := frameForm_ne _ _
theorem opcReadSysinfo (f : FrameForm) : Statement (.opcReadSysinfo f) := frameForm_ne _ _
theorem opcTemplateCount (f : FrameForm) : Statement (.opcTemplateCount f) := frameForm_ne _ _
theorem stOk (f : FrameForm) : Statement (.stOk f) := frameForm_ne _ _
theorem stRxErr (f : FrameForm) : Statement (.stRxErr f) := frameForm_ne _ _
theorem stNoFinger (f : FrameForm) : Statement (.stNoFinger f) := frameForm_ne _ _
theorem stImageFail (f : FrameForm) : Statement (.stImageFail f) := frameForm_ne _ _
theorem stNotFound (f : FrameForm) : Statement (.stNotFound f) := frameForm_ne _ _
theorem stEnrollMismatch (f : FrameForm) : Statement (.stEnrollMismatch f) := frameForm_ne _ _

end Sys2Proof.Laws.EncodeNonempty
end

