-- ==== Sys2Proof/Laws/Steps.lean ====
section
/-! SUPPORT. Everything one step can do: a move of the host, a TX step or an RX step, and what each of these can do. -/

namespace Sys2Proof.Machine

/-! ## The TX step (R130) -/

/-- Everything a TX step that answers a next state can do. -/
inductive TxEffect (s s' : State) : Prop where
  /-- R123: a byte was accepted -/
  | sent (b : Byte) (hs : s.tx.state = .send) (hb : s.tx.buf[s.tx.idx]? = some b)
      (he : s' = (s.setLine (s.line.write b).2).setTx
        { s.tx with idx := s.tx.idx + 1, state := if s.tx.idx + 1 < s.tx.buf.length then .send else .flush })
  /-- R125: the transport answered `Error` -/
  | failed (l : Line) (hl : l = s.line.flush.2 ∨ ∃ b, l = (s.line.write b).2) (he : s' = (s.setLine l).raiseTx)
  /-- R124: the flush was answered `Ok` -/
  | flushed (hs : s.tx.state = .flush) (he : s' = (s.setLine s.line.flush.2).setTx (Tx.idleWith .done))

/-- Inversion of the TX step. -/
theorem txStep_cases {s s' : State} (hb : s.tx.state ≠ .idle) (h : txStep s = .next s') : TxEffect s s' := by
  unfold txStep at h
  split at h
  · contradiction
  · rename_i hs
    unfold txStepSend at h
    split at h
    · cases h
    · rename_i b hbuf
      split at h
      · rename_i l hw; cases h; exact .failed l (.inr ⟨b, by rw [hw]⟩) rfl
      · rename_i l hw; cases h; exact .sent b hs hbuf (by rw [hw])
  · rename_i hs
    unfold txStepFlush at h
    split at h
    · rename_i l hw; cases h; exact .failed l (.inl (by rw [hw])) rfl
    · rename_i l hw; cases h; exact .flushed hs (by rw [hw])

/-- The TX step faults only where R29 is violated. -/
theorem txStep_fault {s : State} {r : Fault} (h : txStep s = .fault r) :
    s.tx.state = .send ∧ s.tx.buf.length ≤ s.tx.idx := by
  unfold txStep at h
  split at h
  · cases h
  · rename_i hs
    unfold txStepSend at h
    split at h
    · rename_i hb; exact ⟨hs, by simpa using hb⟩
    · split at h <;> cases h
  · unfold txStepFlush at h
    split at h <;> cases h

/-- The TX step is never refused. -/
theorem txStep_not_refused {s : State} {r : Refusal} : txStep s ≠ .refused r := by
  unfold txStep txStepSend txStepFlush
  repeat' split
  all_goals simp

/-! ## The RX step (R163) -/

/-- What a line event makes of the RX half, where the step answers a next state. -/
inductive RxEffect (par : Params) (r r' : Rx) : Prop where
  /-- R142 -/
  | discard (hs : r.state = .hunt) (he : r' = r)
  /-- R143 -/
  | sync (hs : r.state = .hunt) (he : r' = { r with buf := [0xEF], cnt := 1, state := .head })
  /-- R144 -/
  | head (b : Byte) (hs : r.state = .head) (hc : r.cnt + 1 ≠ 9)
      (he : r' = { r with buf := r.buf ++ [b], cnt := r.cnt + 1 })
  /-- R147 -/
  | accept (b t h l : Byte) (hs : r.state = .head) (hc : r.cnt + 1 = 9)
      (h0 : (r.buf ++ [b])[0]? = some 0xEF) (h1 : (r.buf ++ [b])[1]? = some 0x01)
      (h6 : (r.buf ++ [b])[6]? = some t) (h7 : (r.buf ++ [b])[7]? = some h) (h8 : (r.buf ++ [b])[8]? = some l)
      (hlo : 2 ≤ (be16 h l).toNat) (hhi : (be16 h l).toNat ≤ par.maxLen.toNat)
      (he : r' =
        { r with
          buf := r.buf ++ [b], cnt := r.cnt + 1, len := be16 h l
          sum := BitVec.ofNat 16 (t.toNat + h.toNat + l.toNat), state := .body })
  /-- R148 -/
  | body (b : Byte) (hs : r.state = .body) (hc : r.cnt + 1 ≠ 9 + r.len.toNat)
      (he : r' =
        { r with
          buf := r.buf ++ [b], cnt := r.cnt + 1
          sum := if r.cnt < 7 + r.len.toNat then r.sum + b.zeroExtend 16 else r.sum })
  /-- R151 -/
  | reply (t : Byte) (p : List Byte) (hs : r.state = .body) (hp : p.length = r.len.toNat - 2)
      (hl : 2 ≤ r.len.toNat) (he : r' = Rx.idleWith (.reply (t :: p)))
  /-- R154 -/
  | failed (k : Kind) (c : Cause)
      (hk : (k = .badData ∧ c ≠ .none) ∨ ((k = .cantRead ∨ k = .notResponding) ∧ c = .none))
      (he : r' = Rx.idleWith (.err k c))

theorem headerCheck_cases {s s' : State} (h : headerCheck s = .next s') :
    (∃ c, (c = .marker ∨ c = .length) ∧ s' = s.raiseRx .badData c) ∨
    ∃ t hh l, s.rx.buf[0]? = some 0xEF ∧ s.rx.buf[1]? = some 0x01 ∧ s.rx.buf[6]? = some t ∧
      s.rx.buf[7]? = some hh ∧ s.rx.buf[8]? = some l ∧
      2 ≤ (be16 hh l).toNat ∧ (be16 hh l).toNat ≤ s.par.maxLen.toNat ∧
      s' = s.setRx
        { s.rx with
          len := be16 hh l, sum := BitVec.ofNat 16 (t.toNat + hh.toNat + l.toNat), state := .body } := by
  unfold headerCheck at h
  split at h
  · rename_i m n t hh l h0 h1 h6 h7 h8
    simp only [Config.lenBias] at h
    split at h
    · cases h; exact .inl ⟨_, .inl rfl, rfl⟩
    · rename_i hm
      simp only [Config.markerHi, Config.markerLo, not_or, not_not] at hm
      obtain ⟨rfl, rfl⟩ := hm
      split at h
      · cases h; exact .inl ⟨_, .inr rfl, rfl⟩
      · split at h
        · cases h; exact .inl ⟨_, .inr rfl, rfl⟩
        · cases h
          exact .inr ⟨t, hh, l, h0, h1, h6, h7, h8, by omega, by omega, rfl⟩
  · cases h

theorem complete_cases {s s' : State} (h : complete s = .next s') :
    s' = s.raiseRx .badData .checksum ∨
    ∃ t p, slice? 9 (7 + s.rx.len.toNat) s.rx.buf = some p ∧ s' = s.setRx (Rx.idleWith (.reply (t :: p))) := by
  unfold complete at h
  split at h
  · split at h
    · cases h; exact .inl rfl
    · cases h; exact .inr ⟨_, _, by assumption, rfl⟩
  · cases h

/-- Inversion of the deframer's answer to one line event. -/
theorem rxEvent_cases {e : LineEvent} {s s' : State} (hb : s.rx.state ≠ .idle) (h : rxEvent e s = .next s') :
    RxEffect s.par s.rx s'.rx ∧ s' = s.setRx s'.rx := by
  unfold rxEvent at h
  split at h
  · contradiction
  · cases h; exact ⟨.failed .notResponding .none (.inr ⟨.inr rfl, rfl⟩) rfl, rfl⟩
  · cases h; exact ⟨.failed .cantRead .none (.inr ⟨.inl rfl, rfl⟩) rfl, rfl⟩
  · rename_i b hs
    unfold rxHunt at h
    split at h <;> cases h
    · exact ⟨.sync hs rfl, rfl⟩
    · exact ⟨.discard hs rfl, rfl⟩
  · rename_i b hs
    unfold rxHead at h
    split at h
    · rename_i hc
      obtain ⟨c, hc', rfl⟩ | ⟨t, hh, l, h0, h1, h6, h7, h8, hlo, hhi, rfl⟩ := headerCheck_cases h
      · exact ⟨.failed .badData c (.inl ⟨rfl, by rcases hc' with rfl | rfl <;> simp⟩) rfl, rfl⟩
      · exact ⟨.accept b t hh l hs hc h0 h1 h6 h7 h8 hlo hhi rfl, rfl⟩
    · rename_i hc; cases h; exact ⟨.head b hs hc rfl, rfl⟩
  · rename_i b hs
    unfold rxBody at h
    have hrx : ((s.append b).addSum s.rx.cnt b).rx =
        { s.rx with
          buf := s.rx.buf ++ [b], cnt := s.rx.cnt + 1
          sum := if s.rx.cnt < 7 + s.rx.len.toNat then s.rx.sum + b.zeroExtend 16 else s.rx.sum } := by
      unfold State.addSum; split <;> simp_all
    have hst : (s.append b).addSum s.rx.cnt b = s.setRx ((s.append b).addSum s.rx.cnt b).rx := by
      unfold State.addSum; split <;> rfl
    split at h
    · obtain rfl | ⟨t, p, hp, rfl⟩ := complete_cases h
      · exact ⟨.failed .badData .checksum (.inl ⟨rfl, by simp⟩) rfl, by rw [hst]; rfl⟩
      · have hp' := slice?_length hp
        have hle := (slice?_eq_some.1 hp).1.1
        rw [hrx] at hp' hle
        dsimp only at hp' hle
        exact ⟨.reply t p hs (by omega) (by omega) rfl, by rw [hst]; rfl⟩
    · rename_i hc
      cases h
      refine ⟨.body b hs ?_ hrx, hst⟩
      rw [hrx] at hc; exact hc

/-- Inversion of the RX step: one read, and what the deframer makes of it. -/
theorem rxStep_cases {s s' : State} (hb : s.rx.state ≠ .idle) (h : rxStep s = .next s') :
    RxEffect s.par s.rx s'.rx ∧ s' = (s.setLine s.line.read.2).setRx s'.rx := by
  have key : rxEvent s.line.read.1 (s.setLine s.line.read.2) = .next s' := by
    unfold rxStep at h
    split at h
    · contradiction
    all_goals exact h
  exact rxEvent_cases (s := s.setLine s.line.read.2) hb key

/-- R153: the RX step whose read fails. -/
theorem rxStep_error {s s' : State} (hb : s.rx.state ≠ .idle) (h : rxStep s = .next s')
    (he : s.line.read.1 = .error) : s'.rx = Rx.idleWith (.err .cantRead .none) := by
  have key : rxEvent .error (s.setLine s.line.read.2) = .next s' := by
    rw [← he]
    unfold rxStep at h
    split at h
    · contradiction
    all_goals exact h
  unfold rxEvent at key
  split at key <;> first | contradiction | (cases key; rfl)

/-- The RX step is never refused. -/
theorem rxStep_not_refused {s : State} {r : Refusal} : rxStep s ≠ .refused r := by
  have he : ∀ e t, rxEvent e t ≠ .refused r := by
    intro e t
    unfold rxEvent rxHunt rxHead rxBody headerCheck complete
    repeat' split
    all_goals simp
  unfold rxStep
  split
  · simp
  all_goals exact he _ _

/-! ## The whole step -/

/-- Everything a step that answers a next state can do: a move of the host (by way of `exec`, a session call or an
exchange in progress), a TX step, or an RX step, the last two up to the count in the host's delays. -/
theorem step_cases {s s' : State} (h : step s = .next s') :
    HostEffect s s' ∨
    (∃ ds, s.tx.state ≠ .idle ∧ TxEffect (s.setHost { s.host with delays := ds }) s' ∧
      (s.host.delays = [] → ds = [])) ∨
    (∃ ds, s.tx.state = .idle ∧ s.rx.state ≠ .idle ∧ RxEffect s.par s.rx s'.rx ∧
      s' = ((s.setHost { s.host with delays := ds }).setLine s.line.read.2).setRx s'.rx ∧
      (s.host.delays = [] → ds = []) ∧ (s.line.read.1 = .error → s'.rx = Rx.idleWith (.err .cantRead .none))) := by
  have work : ∀ ds, (s.host.delays = [] → ds = []) → workMove (s.setHost { s.host with delays := ds }) = .next s' →
      HostEffect s s' ∨
      (∃ ds, s.tx.state ≠ .idle ∧ TxEffect (s.setHost { s.host with delays := ds }) s' ∧
        (s.host.delays = [] → ds = [])) ∨
      (∃ ds, s.tx.state = .idle ∧ s.rx.state ≠ .idle ∧ RxEffect s.par s.rx s'.rx ∧
        s' = ((s.setHost { s.host with delays := ds }).setLine s.line.read.2).setRx s'.rx ∧
        (s.host.delays = [] → ds = []) ∧
        (s.line.read.1 = .error → s'.rx = Rx.idleWith (.err .cantRead .none))) := by
    intro ds hds h
    unfold workMove at h
    split at h
    · rename_i hb
      have hb' : s.tx.state ≠ .idle := by simpa [State.txBusy_eq_true_iff] using hb
      exact .inr (.inl ⟨ds, hb', txStep_cases (s := s.setHost { s.host with delays := ds }) hb' h, hds⟩)
    · rename_i hb
      have hb' : s.tx.state = .idle := by simpa [State.txBusy_eq_true_iff] using hb
      split at h
      · rename_i hr
        have hr' : s.rx.state ≠ .idle := by simpa [State.rxBusy_eq_true_iff] using hr
        obtain ⟨h1, h2⟩ := rxStep_cases (s := s.setHost { s.host with delays := ds }) hr' h
        exact .inr (.inr ⟨ds, hb', hr', h1, h2, hds,
          rxStep_error (s := s.setHost { s.host with delays := ds }) hr' h⟩)
      · cases h
        exact .inl ((taskStep_effect (s.setHost { s.host with delays := ds })).congr rfl rfl rfl ⟨rfl, rfl, rfl, rfl⟩ rfl
          rfl rfl rfl)
  have host : ∀ ds, hostMove (s.setHost { s.host with delays := ds }) = .next s' → HostEffect s s' := by
    intro ds h
    unfold hostMove at h
    split at h
    · unfold fetch at h
      split at h
      · cases h
      · rename_i i rest _
        obtain ⟨t, ht, he⟩ := exec_next i ((s.setHost { s.host with delays := ds }).setHost
          { (s.setHost { s.host with delays := ds }).host with ops := rest })
        rw [ht] at h; cases h
        exact he.congr rfl rfl rfl ⟨rfl, rfl, rfl, rfl⟩ rfl rfl rfl rfl
    · rename_i c cs _ _
      cases h
      exact (startCall_effect c.call ((s.setHost { s.host with delays := ds }).setHost
        { (s.setHost { s.host with delays := ds }).host with calls := cs, ops := c.thenOps })).congr rfl rfl rfl
        ⟨rfl, rfl, rfl, rfl⟩ rfl rfl rfl rfl
    · cases h
      exact .ofHost rfl rfl rfl rfl
  have self : s = s.setHost { s.host with delays := s.host.delays } := rfl
  unfold step oneStep at h
  split at h
  · rename_i hd
    unfold turn at h
    split at h
    · exact work s.host.delays id (by rw [← self]; exact h)
    · exact .inl (host s.host.delays (by rw [← self]; exact h))
  · exact .inl (host _ h)
  · rename_i k ds hd
    exact work _ (by simp [hd]) h
  · rename_i ds hd
    split at h
    · exact work s.host.delays id (by rw [← self]; exact h)
    · exact .inl (host _ h)

/-! ## Who moves, and runs of several steps -/

/-- R223: a step while the TX framer is at work. -/
theorem step_tx {s : State} (hd : s.host.delays = []) (ht : s.tx.state ≠ .idle) : step s = txStep s := by
  unfold step oneStep turn workMove; rw [hd]
  have h1 : s.busy = true := by rw [State.busy_eq_true_iff]; exact .inr ht
  have h2 : s.txBusy = true := by rw [State.txBusy_eq_true_iff]; exact ht
  simp [h1, h2]
/-- R141, R223: a step while the RX deframer is at work. -/
theorem step_rx {s : State} (hd : s.host.delays = []) (ht : s.tx.state = .idle) (hr : s.rx.state ≠ .idle) :
    step s = rxEvent s.line.read.1 (s.setLine s.line.read.2) := by
  unfold step oneStep turn workMove; rw [hd]
  have h1 : s.busy = true := by rw [State.busy_eq_true_iff]; exact .inl hr
  have h2 : s.txBusy = false := by rw [← Bool.not_eq_true, State.txBusy_eq_true_iff]; simp [ht]
  have h3 : s.rxBusy = true := by rw [State.rxBusy_eq_true_iff]; exact hr
  simp only [h1, h2, h3]
  simp only [Bool.true_or, ↓reduceIte, Bool.false_eq_true]
  unfold rxStep
  split <;> simp_all
/-- R181: a step of the host inside an exchange. -/
theorem step_task {s : State} (hd : s.host.delays = []) (hr : s.rx.state = .idle) (ht : s.tx.state = .idle)
    (hw : s.host.task ≠ .none) : step s = .next (taskStep s) := by
  unfold step oneStep turn workMove; rw [hd]
  have h1 : s.busy = false := by rw [State.busy_eq_false_iff]; exact ⟨hr, ht⟩
  have h2 : s.txBusy = false := by rw [← Bool.not_eq_true, State.txBusy_eq_true_iff]; simp [ht]
  have h3 : s.rxBusy = false := by rw [← Bool.not_eq_true, State.rxBusy_eq_true_iff]; simp [hr]
  have h4 : s.waiting = true := by simp [State.waiting, hw]
  simp [h1, h2, h3, h4]
/-- R180: a step at which the host has its turn. -/
theorem step_host {s : State} (hd : s.host.delays = []) (hr : s.rx.state = .idle) (ht : s.tx.state = .idle)
    (hw : s.host.task = .none) : step s = hostMove s := by
  unfold step oneStep turn; rw [hd]
  have h1 : s.busy = false := by rw [State.busy_eq_false_iff]; exact ⟨hr, ht⟩
  have h4 : s.waiting = false := by simp [State.waiting, hw]
  simp [h1, h4]

/-- A run whose first step is known. -/
theorem runSteps_succ {s s' : State} (h : step s = .next s') (n : Nat) : runSteps (n+1) s = runSteps n s' := by
  rw [runSteps.eq_def]; simp only [h]
/-- Runs one after the other. -/
theorem runSteps_add (m n : Nat) (s s' : State) (h : runSteps m s = .next s') : runSteps (m + n) s = runSteps n s' := by
  induction m generalizing s with
  | zero => simp [runSteps] at h; subst h; simp
  | succ m ih =>
    rw [Nat.succ_add]
    rcases hs : step s with s1 | f | r
    · rw [runSteps_succ hs] at h ⊢; exact ih _ h
    · rw [runSteps.eq_def] at h; simp [hs] at h
    · rw [runSteps.eq_def] at h; simp [hs] at h

end Sys2Proof.Machine
end

