-- ==== Sys2Proof/Tests/Slice0.lean ====
section
/-! SUPPORT. Tests. Every expected word, frame and outcome is written out from spec/95_test_vectors.md or computed by hand
from the formulas of R80 to R101. Then the witnesses: for each statement of Certificates/Slice0/Obligations.lean with
hypotheses, a concrete state and operands that meet them. -/

namespace Sys2Proof.Tests

open Sys2Proof Sys2Proof.Machine

/-! ## Helpers -/

/-- An open reference transport (R57) with `es` waiting. -/
def reference (es : List LineEvent) : Line :=
  { isOpen := true, kind := .reference, lineIn := es, answers := [], opens := [], sendBuf := [], early := 0,
    lineOut := [], tick := 0 }

/-- An open oracle with fixed answers. -/
def oracle (es : List LineEvent) (as : List Bool) : Line :=
  { isOpen := true, kind := .oracle, lineIn := es, answers := as, opens := [], sendBuf := [], early := 0,
    lineOut := [], tick := 0 }

/-- The reset state over an open reference transport. -/
def quiet : State := { State.reset with line := reference [] }

/-- A `DECODE` that hunts, with `es` waiting. -/
def hunting (es : List LineEvent) : State :=
  { quiet with
    line := reference es
    rx := { state := .hunt, buf := [], cnt := 0, len := 0, sum := 0, res := .none } }

/-- A `DECODE` in HEAD with the bytes `b` accumulated. -/
def inHead (b : List Byte) (es : List LineEvent) : State :=
  { quiet with
    line := reference es
    rx := { state := .head, buf := b, cnt := b.length, len := 0, sum := 0, res := .none } }

/-- A `DECODE` in BODY. -/
def inBody (b : List Byte) (len sum : Word16) (es : List LineEvent) : State :=
  { quiet with
    line := reference es
    rx := { state := .body, buf := b, cnt := b.length, len := len, sum := sum, res := .none } }

/-- An `ENCODE` just issued, over the transport `l`. -/
def sending (t : Byte) (p : List Byte) (l : Line) : State :=
  { quiet with line := l, tx := { state := .send, buf := frame t p, idx := 0, res := .none } }

/-- An `ENCODE` that waits for its flush, over the transport `l`. -/
def flushing (t : Byte) (p : List Byte) (l : Line) : State :=
  { quiet with line := l, tx := { state := .flush, buf := frame t p, idx := p.length + 11, res := .none } }

/-- The host waits, and the Reply or failure `o` is there. -/
def received (g : Goal) (o : RxRes) : State :=
  { quiet with rx := Rx.idleWith o, host := { quiet.host with task := .receiving g } }

/-- What `f` gives of the next state. -/
def after {α : Type} (r : Result) (f : State → α) : Option α :=
  match r with
  | .next s => some (f s)
  | .fault _ => none
  | .refused _ => none

/-- The instruction a decoder's answer holds, where no bytes are left. -/
def whole (r : Except DecodeError (Instr × List Byte)) : Option Instr :=
  match r with
  | .ok (i, []) => some i
  | .ok (_, _ :: _) => none
  | .error _ => none

/-- Why a decoder refuses. -/
def why (r : Except DecodeError (Instr × List Byte)) : Option DecodeError :=
  match r with
  | .ok _ => none
  | .error e => some e

/-! ## WellFormed: an ill-formed term for each check -/

theorem test_wf_level_low : Instr.wellFormed (.setSecurity 0x00) = false := by decide
theorem test_wf_level_high : Instr.wellFormed (.setSecurity 0x06) = false := by decide
theorem test_wf_level_ok : Instr.wellFormed (.setSecurity 0x05) = true := by decide
theorem test_wf_sent_too_long :
    Instr.wellFormed (.frameData (.send (List.replicate 65534 0x00))) = false := by
  show decide ((List.replicate 65534 (0x00 : Byte)).length ≤ 65533) = false
  rw [List.length_replicate]; decide
theorem test_wf_row_sent_too_long :
    Instr.wellFormed (.opcLoad (.send (List.replicate 65533 0x00))) = false := by
  show (decide ((0x07 :: List.replicate 65533 (0x00 : Byte)).length ≤ 65533) && true) = false
  rw [List.length_cons, List.length_replicate]; decide
theorem test_wf_body_short :
    Instr.wellFormed (.frameEnd (.recv ⟨0xFF, 0xFF, 0xFF, 0xFF⟩ 0x0003 [0x00, 0x00])) = false := by decide
theorem test_wf_body_without_length :
    Instr.wellFormed (.frameEnd (.recv ⟨0xFF, 0xFF, 0xFF, 0xFF⟩ 0x0001 [0x00])) = false := by decide
theorem test_wf_listed_opcode_elsewhere : Instr.wellFormed (.frameCmd (.send [0x13])) = false := by decide
theorem test_wf_listed_status_elsewhere : Instr.wellFormed (.frameAck (.send [0x0A])) = false := by decide
theorem test_wf_known_tag_elsewhere : Instr.wellFormed (.frameOther 0x08 (.send [])) = false := by decide
theorem test_wf_row_body_short :
    Instr.wellFormed (.stOk (.recv ⟨0xFF, 0xFF, 0xFF, 0xFF⟩ 0x0003 [0x00])) = false := by decide
theorem test_wf_row_without_payload :
    Instr.wellFormed (.opcStore (.recv ⟨0xFF, 0xFF, 0xFF, 0xFF⟩ 0x0002 [0x00])) = false := by decide

/-! ## Decoding, by words written out from the spec -/

/-- R99 `ENCODE 01, [13 00]`. -/
theorem test_decode_encode :
    whole (decode [0x45, 0x4E, 0x43, 0x4F, 0x44, 0x45, 0x20, 0x30, 0x31, 0x2C, 0x20, 0x5B, 0x31, 0x33, 0x20, 0x30,
      0x30, 0x5D, 0x0A]) = some (.encode 0x01 [0x13, 0x00]) := by decide
/-- R99 `DECODE`. -/
theorem test_decode_decode : whole (decode [0x44, 0x45, 0x43, 0x4F, 0x44, 0x45, 0x0A]) = some (.decode) := by decide
/-- R99 `RESET`. -/
theorem test_decode_reset : whole (decode [0x52, 0x45, 0x53, 0x45, 0x54, 0x0A]) = some (.reset) := by decide
/-- R100 `EXCHANGE 07, []`. -/
theorem test_decode_exchange :
    whole (decode [0x45, 0x58, 0x43, 0x48, 0x41, 0x4E, 0x47, 0x45, 0x20, 0x30, 0x37, 0x2C, 0x20, 0x5B, 0x5D, 0x0A])
      = some (.exchange 0x07 []) := by decide
/-- R100 `CMD [0F]`. -/
theorem test_decode_cmd :
    whole (decode [0x43, 0x4D, 0x44, 0x20, 0x5B, 0x30, 0x46, 0x5D, 0x0A]) = some (.cmd [0x0F]) := by decide
/-- R100 `DATA [FF 10]`. -/
theorem test_decode_data :
    whole (decode [0x44, 0x41, 0x54, 0x41, 0x20, 0x5B, 0x46, 0x46, 0x20, 0x31, 0x30, 0x5D, 0x0A]) = some (.data
      [0xFF, 0x10]) := by decide
/-- R100 `END [A9]`. -/
theorem test_decode_endData :
    whole (decode [0x45, 0x4E, 0x44, 0x20, 0x5B, 0x41, 0x39, 0x5D, 0x0A]) = some (.endData [0xA9]) := by decide
/-- R100 `VERIFY_PWD`. -/
theorem test_decode_verifyPwd :
    whole (decode [0x56, 0x45, 0x52, 0x49, 0x46, 0x59, 0x5F, 0x50, 0x57, 0x44, 0x0A]) = some (.verifyPwd) := by decide
/-- R100 `GET_IMAGE`. -/
theorem test_decode_getImage :
    whole (decode [0x47, 0x45, 0x54, 0x5F, 0x49, 0x4D, 0x41, 0x47, 0x45, 0x0A]) = some (.getImage) := by decide
/-- R100 `EMPTY`. -/
theorem test_decode_empty : whole (decode [0x45, 0x4D, 0x50, 0x54, 0x59, 0x0A]) = some (.empty) := by decide
/-- R100 `READ_PARAMS`. -/
theorem test_decode_readParams :
    whole (decode [0x52, 0x45, 0x41, 0x44, 0x5F, 0x50, 0x41, 0x52, 0x41, 0x4D, 0x53, 0x0A]) = some (.readParams) :=
      by decide
/-- R100 `SET_SECURITY 3`. -/
theorem test_decode_setSecurity :
    whole (decode [0x53, 0x45, 0x54, 0x5F, 0x53, 0x45, 0x43, 0x55, 0x52, 0x49, 0x54, 0x59, 0x20, 0x33, 0x0A]) = some
      (.setSecurity 0x03) := by decide
/-- R90, opcode 03 is not listed. -/
theorem test_decode_frameCmd :
    whole (decode [0x3E, 0xEF, 0x01, 0xFF, 0xFF, 0xFF, 0xFF, 0x01, 0x00, 0x03, 0x03, 0x00, 0x07]) = some (.frameCmd
      (.send [0x03])) := by decide
/-- R90. -/
theorem test_decode_frameData :
    whole (decode [0x3E, 0xEF, 0x01, 0xFF, 0xFF, 0xFF, 0xFF, 0x02, 0x00, 0x04, 0xAA, 0xBB, 0x01, 0x6B]) = some
      (.frameData (.send [0xAA, 0xBB])) := by decide
/-- V-RX3. -/
theorem test_decode_frameAck :
    whole (decode [0x3C, 0xEF, 0x01, 0xFF, 0xFF, 0xFF, 0xFF, 0x07, 0x00, 0x02, 0x00, 0x09]) = some (.frameAck (.recv
      ⟨0xFF, 0xFF, 0xFF, 0xFF⟩ 0x0002 [0x00, 0x09])) := by decide
/-- R90. -/
theorem test_decode_frameEnd :
    whole (decode [0x3C, 0xEF, 0x01, 0xFF, 0xFF, 0xFF, 0xFF, 0x08, 0x00, 0x03, 0xFF, 0x01, 0x0A]) = some (.frameEnd
      (.recv ⟨0xFF, 0xFF, 0xFF, 0xFF⟩ 0x0003 [0xFF, 0x01, 0x0A])) := by decide
/-- V-RX9. -/
theorem test_decode_frameOther :
    whole (decode [0x3C, 0xEF, 0x01, 0xFF, 0xFF, 0xFF, 0xFF, 0x55, 0x00, 0x03, 0xAA, 0x01, 0x02]) = some
      (.frameOther 0x55 (.recv ⟨0xFF, 0xFF, 0xFF, 0xFF⟩ 0x0003 [0xAA, 0x01, 0x02])) := by decide
/-- V-TX2. -/
theorem test_decode_opcGetImage :
    whole (decode [0x3E, 0xEF, 0x01, 0xFF, 0xFF, 0xFF, 0xFF, 0x01, 0x00, 0x03, 0x01, 0x00, 0x05]) = some
      (.opcGetImage (.send [])) := by decide
/-- V-TX12. -/
theorem test_decode_opcImg2Tz :
    whole (decode [0x3E, 0xEF, 0x01, 0xFF, 0xFF, 0xFF, 0xFF, 0x01, 0x00, 0x04, 0x02, 0x01, 0x00, 0x08]) = some
      (.opcImg2Tz (.send [0x01])) := by decide
/-- R96. -/
theorem test_decode_opcHsSearch :
    whole (decode [0x3E, 0xEF, 0x01, 0xFF, 0xFF, 0xFF, 0xFF, 0x01, 0x00, 0x03, 0x04, 0x00, 0x08]) = some
      (.opcHsSearch (.send [])) := by decide
/-- V-TX13. -/
theorem test_decode_opcRegModel :
    whole (decode [0x3E, 0xEF, 0x01, 0xFF, 0xFF, 0xFF, 0xFF, 0x01, 0x00, 0x03, 0x05, 0x00, 0x09]) = some
      (.opcRegModel (.send [])) := by decide
/-- V-TX7. -/
theorem test_decode_opcStore :
    whole (decode [0x3E, 0xEF, 0x01, 0xFF, 0xFF, 0xFF, 0xFF, 0x01, 0x00, 0x06, 0x06, 0x01, 0x00, 0x07, 0x00, 0x15])
      = some (.opcStore (.send [0x01, 0x00, 0x07])) := by decide
/-- R96. -/
theorem test_decode_opcLoad :
    whole (decode [0x3E, 0xEF, 0x01, 0xFF, 0xFF, 0xFF, 0xFF, 0x01, 0x00, 0x03, 0x07, 0x00, 0x0B]) = some (.opcLoad
      (.send [])) := by decide
/-- V-TX18. -/
theorem test_decode_opcUpload :
    whole (decode [0x3E, 0xEF, 0x01, 0xFF, 0xFF, 0xFF, 0xFF, 0x01, 0x00, 0x04, 0x08, 0x01, 0x00, 0x0E]) = some
      (.opcUpload (.send [0x01])) := by decide
/-- V-TX19. -/
theorem test_decode_opcDownload :
    whole (decode [0x3E, 0xEF, 0x01, 0xFF, 0xFF, 0xFF, 0xFF, 0x01, 0x00, 0x04, 0x09, 0x01, 0x00, 0x0F]) = some
      (.opcDownload (.send [0x01])) := by decide
/-- R96. -/
theorem test_decode_opcDelete :
    whole (decode [0x3E, 0xEF, 0x01, 0xFF, 0xFF, 0xFF, 0xFF, 0x01, 0x00, 0x03, 0x0C, 0x00, 0x10]) = some (.opcDelete
      (.send [])) := by decide
/-- V-TX16. -/
theorem test_decode_opcEmpty :
    whole (decode [0x3E, 0xEF, 0x01, 0xFF, 0xFF, 0xFF, 0xFF, 0x01, 0x00, 0x03, 0x0D, 0x00, 0x11]) = some (.opcEmpty
      (.send [])) := by decide
/-- V-TX6. -/
theorem test_decode_opcSetParam :
    whole (decode [0x3E, 0xEF, 0x01, 0xFF, 0xFF, 0xFF, 0xFF, 0x01, 0x00, 0x05, 0x0E, 0x05, 0x03, 0x00, 0x1C]) = some
      (.opcSetParam (.send [0x05, 0x03])) := by decide
/-- V-TX17. -/
theorem test_decode_opcReadParams :
    whole (decode [0x3E, 0xEF, 0x01, 0xFF, 0xFF, 0xFF, 0xFF, 0x01, 0x00, 0x03, 0x0F, 0x00, 0x13]) = some
      (.opcReadParams (.send [])) := by decide
/-- V-TX1. -/
theorem test_decode_opcVerifyPwd :
    whole (decode [0x3E, 0xEF, 0x01, 0xFF, 0xFF, 0xFF, 0xFF, 0x01, 0x00, 0x07, 0x13, 0x00, 0x00, 0x00, 0x00, 0x00,
      0x1B]) = some (.opcVerifyPwd (.send [0x00, 0x00, 0x00, 0x00])) := by decide
/-- R96. -/
theorem test_decode_opcReadSysinfo :
    whole (decode [0x3E, 0xEF, 0x01, 0xFF, 0xFF, 0xFF, 0xFF, 0x01, 0x00, 0x03, 0x16, 0x00, 0x1A]) = some
      (.opcReadSysinfo (.send [])) := by decide
/-- R96. -/
theorem test_decode_opcTemplateCount :
    whole (decode [0x3E, 0xEF, 0x01, 0xFF, 0xFF, 0xFF, 0xFF, 0x01, 0x00, 0x03, 0x1D, 0x00, 0x21]) = some
      (.opcTemplateCount (.send [])) := by decide
/-- V-RX7. -/
theorem test_decode_stOk :
    whole (decode [0x3C, 0xEF, 0x01, 0x01, 0x02, 0x03, 0x04, 0x07, 0x00, 0x03, 0x00, 0x00, 0x0A]) = some (.stOk
      (.recv ⟨0x01, 0x02, 0x03, 0x04⟩ 0x0003 [0x00, 0x0A])) := by decide
/-- R97. -/
theorem test_decode_stRxErr :
    whole (decode [0x3C, 0xEF, 0x01, 0xFF, 0xFF, 0xFF, 0xFF, 0x07, 0x00, 0x03, 0x01, 0x00, 0x0B]) = some (.stRxErr
      (.recv ⟨0xFF, 0xFF, 0xFF, 0xFF⟩ 0x0003 [0x00, 0x0B])) := by decide
/-- V-TX15. -/
theorem test_decode_stNoFinger :
    whole (decode [0x3C, 0xEF, 0x01, 0xFF, 0xFF, 0xFF, 0xFF, 0x07, 0x00, 0x03, 0x02, 0x00, 0x0C]) = some
      (.stNoFinger (.recv ⟨0xFF, 0xFF, 0xFF, 0xFF⟩ 0x0003 [0x00, 0x0C])) := by decide
/-- R97. -/
theorem test_decode_stImageFail :
    whole (decode [0x3C, 0xEF, 0x01, 0xFF, 0xFF, 0xFF, 0xFF, 0x07, 0x00, 0x03, 0x03, 0x00, 0x0D]) = some
      (.stImageFail (.recv ⟨0xFF, 0xFF, 0xFF, 0xFF⟩ 0x0003 [0x00, 0x0D])) := by decide
/-- S2. -/
theorem test_decode_stNotFound :
    whole (decode [0x3C, 0xEF, 0x01, 0xFF, 0xFF, 0xFF, 0xFF, 0x07, 0x00, 0x03, 0x09, 0x00, 0x13]) = some
      (.stNotFound (.recv ⟨0xFF, 0xFF, 0xFF, 0xFF⟩ 0x0003 [0x00, 0x13])) := by decide
/-- S3. -/
theorem test_decode_stEnrollMismatch :
    whole (decode [0x3C, 0xEF, 0x01, 0xFF, 0xFF, 0xFF, 0xFF, 0x07, 0x00, 0x03, 0x0A, 0x00, 0x14]) = some
      (.stEnrollMismatch (.recv ⟨0xFF, 0xFF, 0xFF, 0xFF⟩ 0x0003 [0x00, 0x14])) := by decide

/-! ### What is no instruction word -/

/-- No bytes. -/
theorem test_decode_refuses_nothing : why (decode []) = some .nothing := by decide
/-- R100 has no such name. -/
theorem test_decode_refuses_name :
    why (decode [0x44, 0x45, 0x43, 0x4F, 0x44, 0x45, 0x53, 0x0A]) = some .unknownOperation := by decide
/-- R194: 1 to 5. -/
theorem test_decode_refuses_level :
    why (decode [0x53, 0x45, 0x54, 0x5F, 0x53, 0x45, 0x43, 0x55, 0x52, 0x49, 0x54, 0x59, 0x20, 0x36, 0x0A]) = some
      .badOperand := by decide
/-- R99: hex bytes. -/
theorem test_decode_refuses_digit :
    why (decode [0x43, 0x4D, 0x44, 0x20, 0x5B, 0x30, 0x47, 0x5D, 0x0A]) = some .badOperand := by decide
/-- V-RX14: the low marker byte is wrong. -/
theorem test_decode_refuses_marker :
    why (decode [0x3C, 0xEF, 0x02, 0xFF, 0xFF, 0xFF, 0xFF, 0x07, 0x00, 0x03, 0x00, 0x00, 0x0A]) = some .badMarker :=
      by decide
/-- R90: on TX the pattern is exact in `ADDR`. -/
theorem test_decode_refuses_address :
    why (decode [0x3E, 0xEF, 0x01, 0x01, 0x02, 0x03, 0x04, 0x07, 0x00, 0x02, 0x00, 0x09]) = some .badAddress := by
      decide
/-- R84: `L = N + 2`. -/
theorem test_decode_refuses_length :
    why (decode [0x3E, 0xEF, 0x01, 0xFF, 0xFF, 0xFF, 0xFF, 0x07, 0x00, 0x01, 0x00, 0x08]) = some .badLength := by
      decide
/-- R86: 000A, not 000B. -/
theorem test_decode_refuses_checksum :
    why (decode [0x3E, 0xEF, 0x01, 0xFF, 0xFF, 0xFF, 0xFF, 0x07, 0x00, 0x03, 0x00, 0x00, 0x0B]) = some .badChecksum
      := by decide
/-- V-RX20: the frame is not whole. -/
theorem test_decode_refuses_truncated :
    why (decode [0x3C, 0xEF, 0x01, 0xFF, 0xFF, 0xFF, 0xFF, 0x07, 0x00, 0x03, 0x00]) = some .truncated := by decide

/-! ### Words of spec/opcode_table.json (log entry 11) -/

/-- `FRAME.END`, `LEN` 0. -/
theorem test_table_word_header :
    decodeTableWord 72 0xEF01FFFFFFFF080000 = some (.frameEnd (.recv ⟨0xFF, 0xFF, 0xFF, 0xFF⟩ 0x0000 [])) := by decide
/-- `ST_ENROLLMISMATCH`. -/
theorem test_table_word_status :
    decodeTableWord 8 0x0A = some (.stEnrollMismatch (.recv ⟨0xFF, 0xFF, 0xFF, 0xFF⟩ 0x0003 [0x00, 0x00])) := by
      decide
/-- The very next step after reset runs the word: the frame arrives. -/
theorem test_table_word_runs_first :
    after (step (State.reset.withFetchWord 8 0x1D)) (fun s => s.line.lineIn.length) = some 12 := by decide

/-! ## Arithmetic: the corner cases of R122 -/

/-- "07, []": 0009. -/
theorem test_chk_empty : chk 0x07 [] = 0x0009 := by decide
/-- "55, [AA]": 0102. -/
theorem test_chk_high_byte : chk 0x55 [0xAA] = 0x0102 := by decide
/-- V-TX4: bytes are unsigned (D7). -/
theorem test_chk_unsigned : chk 0x08 (List.replicate 128 0xFF) = 0x800A := by decide +kernel
/-- V-TX5: the sum wraps. -/
theorem test_chk_wraps : chk 0x02 (List.replicate 300 0xFF) = 0x2B05 := by decide +kernel
/-- S1, corrected. -/
theorem test_frame_verify :
    frame 0x01 [0x13, 0x00, 0x00, 0x00, 0x00] = [0xEF, 0x01, 0xFF, 0xFF, 0xFF, 0xFF, 0x01, 0x00, 0x07, 0x13, 0x00,
      0x00, 0x00, 0x00, 0x00, 0x1B] := by decide

/-! ## One instruction, one step -/

/-- V-TX6. -/
theorem test_exec_encode :
    after (exec (.encode 0x01 [0x0E, 0x05, 0x03]) quiet) (fun s => (s.tx.state, s.tx.buf, s.tx.idx)) = some (.send,
      [0xEF, 0x01, 0xFF, 0xFF, 0xFF, 0xFF, 0x01, 0x00, 0x05, 0x0E, 0x05, 0x03, 0x00, 0x1C], 0) := by decide
/-- V-TX23. -/
theorem test_exec_encode_busy :
    after (exec (.encode 0x01 [0x01]) (hunting [])) (fun s => (s.rx.state, s.tx.state, s.host.refusal)) = some
      (.hunt, .idle, some .busy) := by decide
/-- R140: the outcome is cleared. -/
theorem test_exec_decode :
    after (exec .decode { quiet with rx := Rx.idleWith (.err .cantRead .none) }) (fun s => (s.rx.state, s.rx.res)) =
      some (.hunt, .none) := by decide
/-- V-RX29. -/
theorem test_exec_decode_busy :
    after (exec .decode (sending 0x07 [] (reference []))) (fun s => (s.rx.state, s.host.refusal)) = some (.idle,
      some .busy) := by decide
/-- R240, R241: the queue stays. -/
theorem test_exec_reset :
    after (exec .reset (inHead [0xEF, 0x01] [.byte 0x00])) (fun s => (s.rx, s.line.lineIn)) = some (Rx.idleWith
      .none, [.byte 0x00]) := by decide
/-- V-TX9. -/
theorem test_exec_exchange :
    after (exec (.exchange 0x07 [0x09]) quiet) (fun s => (s.tx.buf, s.host.task)) = some ([0xEF, 0x01, 0xFF, 0xFF,
      0xFF, 0xFF, 0x07, 0x00, 0x03, 0x09, 0x00, 0x13], .sending .exchange) := by decide
/-- V-TX12. -/
theorem test_exec_cmd :
    after (exec (.cmd [0x02, 0x01]) quiet) (fun s => s.tx.buf) = some [0xEF, 0x01, 0xFF, 0xFF, 0xFF, 0xFF, 0x01,
      0x00, 0x04, 0x02, 0x01, 0x00, 0x08] := by decide
/-- R100. -/
theorem test_exec_data :
    after (exec (.data [0xAA]) quiet) (fun s => s.tx.buf) = some [0xEF, 0x01, 0xFF, 0xFF, 0xFF, 0xFF, 0x02, 0x00,
      0x03, 0xAA, 0x00, 0xAF] := by decide
/-- R100. -/
theorem test_exec_endData :
    after (exec (.endData [0xAA]) quiet) (fun s => s.tx.buf) = some [0xEF, 0x01, 0xFF, 0xFF, 0xFF, 0xFF, 0x08, 0x00,
      0x03, 0xAA, 0x00, 0xB5] := by decide
/-- V-TX1. -/
theorem test_exec_verifyPwd :
    after (exec (.verifyPwd) quiet) (fun s => s.tx.buf) = some [0xEF, 0x01, 0xFF, 0xFF, 0xFF, 0xFF, 0x01, 0x00,
      0x07, 0x13, 0x00, 0x00, 0x00, 0x00, 0x00, 0x1B] := by decide
/-- V-TX2. -/
theorem test_exec_getImage :
    after (exec (.getImage) quiet) (fun s => s.tx.buf) = some [0xEF, 0x01, 0xFF, 0xFF, 0xFF, 0xFF, 0x01, 0x00, 0x03,
      0x01, 0x00, 0x05] := by decide
/-- V-TX16. -/
theorem test_exec_empty :
    after (exec (.empty) quiet) (fun s => s.tx.buf) = some [0xEF, 0x01, 0xFF, 0xFF, 0xFF, 0xFF, 0x01, 0x00, 0x03,
      0x0D, 0x00, 0x11] := by decide
/-- V-TX17. -/
theorem test_exec_readParams :
    after (exec (.readParams) quiet) (fun s => s.tx.buf) = some [0xEF, 0x01, 0xFF, 0xFF, 0xFF, 0xFF, 0x01, 0x00,
      0x03, 0x0F, 0x00, 0x13] := by decide
/-- V-TX6. -/
theorem test_exec_setSecurity :
    after (exec (.setSecurity 0x03) quiet) (fun s => s.tx.buf) = some [0xEF, 0x01, 0xFF, 0xFF, 0xFF, 0xFF, 0x01,
      0x00, 0x05, 0x0E, 0x05, 0x03, 0x00, 0x1C] := by decide
/-- R121. -/
theorem test_exec_frameCmd :
    after (exec (.frameCmd (.send [])) quiet) (fun s => s.tx.buf) = some [0xEF, 0x01, 0xFF, 0xFF, 0xFF, 0xFF, 0x01,
      0x00, 0x02, 0x00, 0x03] := by decide
/-- R121. -/
theorem test_exec_frameData :
    after (exec (.frameData (.send [])) quiet) (fun s => s.tx.buf) = some [0xEF, 0x01, 0xFF, 0xFF, 0xFF, 0xFF, 0x02,
      0x00, 0x02, 0x00, 0x04] := by decide
/-- V-TX3. -/
theorem test_exec_frameAck :
    after (exec (.frameAck (.send [])) quiet) (fun s => s.tx.buf) = some [0xEF, 0x01, 0xFF, 0xFF, 0xFF, 0xFF, 0x07,
      0x00, 0x02, 0x00, 0x09] := by decide
/-- R121. -/
theorem test_exec_frameEnd :
    after (exec (.frameEnd (.send [])) quiet) (fun s => s.tx.buf) = some [0xEF, 0x01, 0xFF, 0xFF, 0xFF, 0xFF, 0x08,
      0x00, 0x02, 0x00, 0x0A] := by decide
/-- V-TX11. -/
theorem test_exec_frameOther :
    after (exec (.frameOther 0x55 (.send [0xAA])) quiet) (fun s => s.tx.buf) = some [0xEF, 0x01, 0xFF, 0xFF, 0xFF,
      0xFF, 0x55, 0x00, 0x03, 0xAA, 0x01, 0x02] := by decide
/-- V-TX2. -/
theorem test_exec_opcGetImage :
    after (exec (.opcGetImage (.send [])) quiet) (fun s => s.tx.buf) = some [0xEF, 0x01, 0xFF, 0xFF, 0xFF, 0xFF,
      0x01, 0x00, 0x03, 0x01, 0x00, 0x05] := by decide
/-- V-TX12. -/
theorem test_exec_opcImg2Tz :
    after (exec (.opcImg2Tz (.send [0x01])) quiet) (fun s => s.tx.buf) = some [0xEF, 0x01, 0xFF, 0xFF, 0xFF, 0xFF,
      0x01, 0x00, 0x04, 0x02, 0x01, 0x00, 0x08] := by decide
/-- R96. -/
theorem test_exec_opcHsSearch :
    after (exec (.opcHsSearch (.send [])) quiet) (fun s => s.tx.buf) = some [0xEF, 0x01, 0xFF, 0xFF, 0xFF, 0xFF,
      0x01, 0x00, 0x03, 0x04, 0x00, 0x08] := by decide
/-- V-TX13. -/
theorem test_exec_opcRegModel :
    after (exec (.opcRegModel (.send [])) quiet) (fun s => s.tx.buf) = some [0xEF, 0x01, 0xFF, 0xFF, 0xFF, 0xFF,
      0x01, 0x00, 0x03, 0x05, 0x00, 0x09] := by decide
/-- V-TX7. -/
theorem test_exec_opcStore :
    after (exec (.opcStore (.send [0x01, 0x00, 0x07])) quiet) (fun s => s.tx.buf) = some [0xEF, 0x01, 0xFF, 0xFF,
      0xFF, 0xFF, 0x01, 0x00, 0x06, 0x06, 0x01, 0x00, 0x07, 0x00, 0x15] := by decide
/-- R96. -/
theorem test_exec_opcLoad :
    after (exec (.opcLoad (.send [])) quiet) (fun s => s.tx.buf) = some [0xEF, 0x01, 0xFF, 0xFF, 0xFF, 0xFF, 0x01,
      0x00, 0x03, 0x07, 0x00, 0x0B] := by decide
/-- V-TX18. -/
theorem test_exec_opcUpload :
    after (exec (.opcUpload (.send [0x01])) quiet) (fun s => s.tx.buf) = some [0xEF, 0x01, 0xFF, 0xFF, 0xFF, 0xFF,
      0x01, 0x00, 0x04, 0x08, 0x01, 0x00, 0x0E] := by decide
/-- V-TX19. -/
theorem test_exec_opcDownload :
    after (exec (.opcDownload (.send [0x01])) quiet) (fun s => s.tx.buf) = some [0xEF, 0x01, 0xFF, 0xFF, 0xFF, 0xFF,
      0x01, 0x00, 0x04, 0x09, 0x01, 0x00, 0x0F] := by decide
/-- R96. -/
theorem test_exec_opcDelete :
    after (exec (.opcDelete (.send [])) quiet) (fun s => s.tx.buf) = some [0xEF, 0x01, 0xFF, 0xFF, 0xFF, 0xFF, 0x01,
      0x00, 0x03, 0x0C, 0x00, 0x10] := by decide
/-- V-TX16. -/
theorem test_exec_opcEmpty :
    after (exec (.opcEmpty (.send [])) quiet) (fun s => s.tx.buf) = some [0xEF, 0x01, 0xFF, 0xFF, 0xFF, 0xFF, 0x01,
      0x00, 0x03, 0x0D, 0x00, 0x11] := by decide
/-- V-TX6. -/
theorem test_exec_opcSetParam :
    after (exec (.opcSetParam (.send [0x05, 0x03])) quiet) (fun s => s.tx.buf) = some [0xEF, 0x01, 0xFF, 0xFF, 0xFF,
      0xFF, 0x01, 0x00, 0x05, 0x0E, 0x05, 0x03, 0x00, 0x1C] := by decide
/-- V-TX17. -/
theorem test_exec_opcReadParams :
    after (exec (.opcReadParams (.send [])) quiet) (fun s => s.tx.buf) = some [0xEF, 0x01, 0xFF, 0xFF, 0xFF, 0xFF,
      0x01, 0x00, 0x03, 0x0F, 0x00, 0x13] := by decide
/-- V-TX1. -/
theorem test_exec_opcVerifyPwd :
    after (exec (.opcVerifyPwd (.send [0x00, 0x00, 0x00, 0x00])) quiet) (fun s => s.tx.buf) = some [0xEF, 0x01,
      0xFF, 0xFF, 0xFF, 0xFF, 0x01, 0x00, 0x07, 0x13, 0x00, 0x00, 0x00, 0x00, 0x00, 0x1B] := by decide
/-- R96. -/
theorem test_exec_opcReadSysinfo :
    after (exec (.opcReadSysinfo (.send [])) quiet) (fun s => s.tx.buf) = some [0xEF, 0x01, 0xFF, 0xFF, 0xFF, 0xFF,
      0x01, 0x00, 0x03, 0x16, 0x00, 0x1A] := by decide
/-- R96. -/
theorem test_exec_opcTemplateCount :
    after (exec (.opcTemplateCount (.send [])) quiet) (fun s => s.tx.buf) = some [0xEF, 0x01, 0xFF, 0xFF, 0xFF,
      0xFF, 0x01, 0x00, 0x03, 0x1D, 0x00, 0x21] := by decide
/-- V-RX7. -/
theorem test_exec_stOk :
    after (exec (.stOk (.recv ⟨0x01, 0x02, 0x03, 0x04⟩ 0x0003 [0x00, 0x0A])) quiet) (fun s => s.line.lineIn) = some
      ([0xEF, 0x01, 0x01, 0x02, 0x03, 0x04, 0x07, 0x00, 0x03, 0x00, 0x00, 0x0A].map LineEvent.byte) := by decide
/-- R97. -/
theorem test_exec_stRxErr :
    after (exec (.stRxErr (.recv ⟨0xFF, 0xFF, 0xFF, 0xFF⟩ 0x0003 [0x00, 0x0B])) quiet) (fun s => s.line.lineIn) =
      some ([0xEF, 0x01, 0xFF, 0xFF, 0xFF, 0xFF, 0x07, 0x00, 0x03, 0x01, 0x00, 0x0B].map LineEvent.byte) := by decide
/-- V-TX15. -/
theorem test_exec_stNoFinger :
    after (exec (.stNoFinger (.recv ⟨0xFF, 0xFF, 0xFF, 0xFF⟩ 0x0003 [0x00, 0x0C])) quiet) (fun s => s.line.lineIn) =
      some ([0xEF, 0x01, 0xFF, 0xFF, 0xFF, 0xFF, 0x07, 0x00, 0x03, 0x02, 0x00, 0x0C].map LineEvent.byte) := by decide
/-- R97. -/
theorem test_exec_stImageFail :
    after (exec (.stImageFail (.recv ⟨0xFF, 0xFF, 0xFF, 0xFF⟩ 0x0003 [0x00, 0x0D])) quiet) (fun s => s.line.lineIn)
      = some ([0xEF, 0x01, 0xFF, 0xFF, 0xFF, 0xFF, 0x07, 0x00, 0x03, 0x03, 0x00, 0x0D].map LineEvent.byte) := by
      decide
/-- S2. -/
theorem test_exec_stNotFound :
    after (exec (.stNotFound (.recv ⟨0xFF, 0xFF, 0xFF, 0xFF⟩ 0x0003 [0x00, 0x13])) quiet) (fun s => s.line.lineIn) =
      some ([0xEF, 0x01, 0xFF, 0xFF, 0xFF, 0xFF, 0x07, 0x00, 0x03, 0x09, 0x00, 0x13].map LineEvent.byte) := by decide
/-- S3. -/
theorem test_exec_stEnrollMismatch :
    after (exec (.stEnrollMismatch (.recv ⟨0xFF, 0xFF, 0xFF, 0xFF⟩ 0x0003 [0x00, 0x14])) quiet) (fun s =>
      s.line.lineIn) = some ([0xEF, 0x01, 0xFF, 0xFF, 0xFF, 0xFF, 0x07, 0x00, 0x03, 0x0A, 0x00, 0x14].map
      LineEvent.byte) := by decide

/-! ## One step of a sequencer -/

/-- R123. -/
theorem test_step_send :
    after (step (sending 0x07 [] (reference []))) (fun s => (s.tx.state, s.tx.idx, s.line.lineOut)) = some (.send,
      1, [0xEF]) := by decide
/-- R125, V-TX26. -/
theorem test_step_send_error :
    after (step (sending 0x01 [0x01] (oracle [] [false]))) (fun s => (s.tx.state, s.tx.res)) = some (.idle, .err
      .cantWrite .none) := by decide
/-- R124. -/
theorem test_step_flush :
    after (step (flushing 0x07 [] (oracle [] [true]))) (fun s => (s.tx.state, s.tx.res)) = some (.idle, .done) := by
      decide
/-- R142: "`Byte(0x01)` is discarded". -/
theorem test_step_discard :
    after (step (hunting [.byte 0x01, .byte 0xEF])) (fun s => (s.rx.state, s.rx.cnt, s.line.lineIn)) = some (.hunt,
      0, [.byte 0xEF]) := by decide
/-- R143. -/
theorem test_step_sync :
    after (step (hunting [.byte 0xEF])) (fun s => (s.rx.state, s.rx.buf)) = some (.head, [0xEF]) := by decide
/-- Step 11 of the trace of V-RX4. -/
theorem test_step_header :
    after (step (inHead [0xEF, 0x01, 0xFF, 0xFF, 0xFF, 0xFF, 0x07, 0x00] [.byte 0x03])) (fun s => (s.rx.state,
      s.rx.cnt, s.rx.len, s.rx.sum)) = some (.body, 9, 0x0003, 0x000A) := by decide
/-- V-RX24. -/
theorem test_step_bad_marker :
    after (step (inHead [0xEF, 0xEF, 0x01, 0xFF, 0xFF, 0xFF, 0xFF, 0x07] [.byte 0x00])) (fun s => s.rx) = some
      (Rx.idleWith (.err .badData .marker)) := by decide
/-- V-RX16. -/
theorem test_step_length_one :
    after (step (inHead [0xEF, 0x01, 0xFF, 0xFF, 0xFF, 0xFF, 0x07, 0x00] [.byte 0x01])) (fun s => s.rx) = some
      (Rx.idleWith (.err .badData .length)) := by decide
/-- R217 item 2. -/
theorem test_step_marker_before_length :
    after (step (inHead [0xEF, 0x02, 0xFF, 0xFF, 0xFF, 0xFF, 0x07, 0x00] [.byte 0x00])) (fun s => s.rx.res) = some
      (.err .badData .marker) := by decide
/-- R148: index 9 is summed. -/
theorem test_step_payload_byte :
    after (step (inBody [0xEF, 0x01, 0xFF, 0xFF, 0xFF, 0xFF, 0x07, 0x00, 0x03] 0x0003 0x000A [.byte 0x02])) (fun s
      => (s.rx.cnt, s.rx.sum)) = some (10, 0x000C) := by decide
/-- R148: index 10 is not summed. -/
theorem test_step_checksum_byte :
    after (step (inBody [0xEF, 0x01, 0xFF, 0xFF, 0xFF, 0xFF, 0x07, 0x00, 0x03, 0x00] 0x0003 0x000A [.byte 0x05]))
      (fun s => (s.rx.cnt, s.rx.sum)) = some (11, 0x000A) := by decide
/-- Step 14 of the trace of V-RX4. -/
theorem test_step_last_byte :
    after (step (inBody [0xEF, 0x01, 0xFF, 0xFF, 0xFF, 0xFF, 0x07, 0x00, 0x03, 0x00, 0x00] 0x0003 0x000A [.byte
      0x0A])) (fun s => s.rx) = some (Rx.idleWith (.reply [0x07, 0x00])) := by decide
/-- V-RX17. -/
theorem test_step_wrong_checksum :
    after (step (inBody [0xEF, 0x01, 0xFF, 0xFF, 0xFF, 0xFF, 0x07, 0x00, 0x03, 0x00, 0x00] 0x0003 0x000A [.byte
      0x0B])) (fun s => s.rx.res) = some (.err .badData .checksum) := by decide
/-- V-RX20. -/
theorem test_step_timeout :
    after (step (inBody [0xEF, 0x01, 0xFF, 0xFF, 0xFF, 0xFF, 0x07, 0x00, 0x03, 0x00] 0x0003 0x000A [])) (fun s =>
      s.rx) = some (Rx.idleWith (.err .notResponding .none)) := by decide
/-- V-RX21. -/
theorem test_step_read_error :
    after (step (inHead [0xEF, 0x01, 0xFF, 0xFF, 0xFF] [.error])) (fun s => s.rx) = some (Rx.idleWith (.err
      .cantRead .none)) := by decide
/-- R184. -/
theorem test_step_handshake :
    after (step (received .handshake (.reply [0x07, 0x00]))) (fun s => (s.host.conn, s.host.out)) = some
      (.connected, .done) := by decide
/-- S2. -/
theorem test_step_search :
    after (step (received .search (.reply [0x07, 0x00, 0x00, 0x01, 0x00, 0x32]))) (fun s => s.host.out) = some
      (.position 0x0001 0x0032) := by decide
/-- S2. -/
theorem test_step_no_match :
    after (step (received .search (.reply [0x07, 0x09]))) (fun s => s.host.out) = some HostOut.noMatch := by decide
/-- S3. -/
theorem test_step_mismatch :
    after (step (received (.modelRegister []) (.reply [0x07, 0x0A]))) (fun s => s.host.out) = some
      HostOut.enrollMismatch := by decide
/-- R100: VERIFY_PWD adds no semantics to its EXCHANGE; its Reply makes no session. -/
theorem test_exec_verifyPwd_is_exchange :
    exec .verifyPwd quiet = exec (.exchange 0x01 [0x13, 0x00, 0x00, 0x00, 0x00]) quiet ∧
      after (step (received .exchange (.reply [0x07, 0x00]))) (fun s => (s.host.conn, s.host.out)) =
        some (.disconnected, .reply [0x07, 0x00]) := ⟨rfl, by decide⟩
/-- R195: `close` in mid-operation has no effect on framer state. -/
theorem test_step_close_while_busy :
    after (step { hunting [] with host := { quiet.host with conn := .connected, calls := [⟨.close, []⟩], delays :=
      [some 0] } }) (fun s => (s.rx.state, s.line.isOpen, s.host.conn)) = some (.hunt, false, .disconnected) := by decide
/-- The session call `c` with a `RESET` behind it, and the delays `ds`. -/
def callThenReset (s : State) (conn : Conn) (c : Call) (ds : List (Option Nat)) : State :=
  let reset : List Byte := [0x52, 0x45, 0x53, 0x45, 0x54, 0x0A]
  { s with host := { quiet.host with conn := conn, calls := [⟨c, reset⟩], delays := ds } }
/-- R195, R197: the host closes in mid-operation and issues `RESET` behind it. -/
theorem test_run_close_then_reset :
    after (runSteps 2 (callThenReset (hunting []) .connected .close [some 0, some 0]))
      (fun s => (s.rx.state, s.line.isOpen, s.host.conn)) = some (.idle, false, .disconnected) := by decide
/-- R184, R240: `RESET` in the middle of the handshake of `connect`, which ends it. -/
theorem test_run_reset_inside_connect :
    let s := callThenReset quiet .disconnected .connect [none, some 1]
    after (runSteps 2 s) (fun s => (s.tx.state, s.tx.idx)) = some (.send, 1) ∧
      after (runSteps 3 s) (fun s => (s.tx.state, s.tx.res, s.host.task, s.host.conn)) =
        some (.idle, .none, .none, .disconnected) := by decide
/-- R56, R34: a byte accepted by the oracle is in the send buffer. -/
theorem test_step_send_oracle :
    after (step (sending 0x07 [] (oracle [] [true]))) (fun s => (s.tx.idx, s.line.sendBuf)) = some (1, [0xEF]) := by
  decide
/-- R240: in any state, busy or not. -/
theorem test_step_reset_while_busy :
    after (step ({ hunting [] with host := { quiet.host with ops := [0x52, 0x45, 0x53, 0x45, 0x54, 0x0A], delays :=
      [some 0] } })) (fun s => s.rx) = some (Rx.idleWith .none) := by decide

/-! ## The vectors of R157 -/

/-- V-RX4, V-RX6. -/
theorem test_run_garbage :
    decodeRun State.reset.par ([0x00, 0x3C, 0xEF, 0x01, 0xFF, 0xFF, 0xFF, 0xFF, 0x07, 0x00, 0x03, 0x00, 0x00, 0x0A,
      0xDE, 0xAD].map LineEvent.byte) = (.reply [0x07, 0x00], [0xDE, 0xAD].map LineEvent.byte) := by decide
/-- V-RX5. -/
theorem test_run_false_sync :
    decodeRun State.reset.par ([0x12, 0xEF, 0xEF, 0x01, 0xFF, 0xFF, 0xFF, 0xFF, 0x07, 0x00, 0x03, 0x00, 0x00,
      0x0A].map LineEvent.byte) = (.err .badData .marker, [0x03, 0x00, 0x00, 0x0A].map LineEvent.byte) := by decide
/-- V-RX26. -/
theorem test_run_phantom :
    decodeRun { chkVerify := true, maxLen := 130 } ([0xEF, 0x01, 0xEF, 0x01, 0xFF, 0xFF, 0xFF, 0xFF, 0x07, 0x00,
      0x03, 0x00, 0x00, 0x0A].map LineEvent.byte) = (.err .badData .length, [0x00, 0x03, 0x00, 0x00, 0x0A].map
      LineEvent.byte) := by decide
/-- V-RX18. -/
theorem test_run_unverified :
    decodeRun { chkVerify := false, maxLen := 65535 } ([0xEF, 0x01, 0xFF, 0xFF, 0xFF, 0xFF, 0x07, 0x00, 0x03, 0x00,
      0x00, 0x0B].map LineEvent.byte) = (.reply [0x07, 0x00], []) := by decide

/-! ## Witnesses: states and operands that meet the hypotheses of the obligations

Each theorem is named after its obligation; a part of its conjunction stands for one clause, at a boundary value. -/

/-- The shortest and the longest payload. -/
theorem witness_EncodeLoadsTheFrame :
    quiet.rx.state = .idle ∧ quiet.tx.state = .idle ∧ ([] : List Byte).length ≤ 65533 ∧
      (List.replicate 65533 (0xFF : Byte)).length ≤ 65533 :=
  ⟨rfl, rfl, by decide, by rw [List.length_replicate]⟩

theorem witness_DecodeStartsTheHunt : quiet.rx.state = .idle ∧ quiet.tx.state = .idle := by decide

theorem witness_CmdDataEndLoadTheirFrames (p : List Byte) :
    quiet.rx.state = .idle ∧ quiet.tx.state = .idle ∧ ([] : List Byte).length ≤ 65533 ∧
      (Instr.data p, (0x02 : Byte)) ∈
        [(Instr.cmd p, (0x01 : Byte)), (Instr.data p, 0x02), (Instr.endData p, 0x08)] := by
  simp [quiet, State.reset, Rx.idleWith, Tx.idleWith]

theorem witness_ExchangesLoadTheirRequest (t n : Byte) (p : List Byte) :
    quiet.rx.state = .idle ∧ quiet.tx.state = .idle ∧ ([] : List Byte).length ≤ 65533 ∧
      (Instr.setSecurity n, (0x01 : Byte), [(0x0E : Byte), 0x05, n]) ∈
        [(Instr.exchange t p, t, p), (Instr.setSecurity n, 0x01, [0x0E, 0x05, n])] := by
  simp [quiet, State.reset, Rx.idleWith, Tx.idleWith]

theorem witness_FrameKindsAreSent (t : Byte) (p : List Byte) :
    quiet.rx.state = .idle ∧ quiet.tx.state = .idle ∧ ([] : List Byte).length ≤ 65533 ∧
      (Instr.frameOther t (.send p), t) ∈
        [(Instr.frameCmd (.send p), (0x01 : Byte)), (Instr.frameOther t (.send p), t)] := by
  simp [quiet, State.reset, Rx.idleWith, Tx.idleWith]

theorem witness_FrameKindsArrive (t : Byte) (a : Addr) :
    (Instr.frameEnd (.recv a 0x0000 []), (0x08 : Byte)) ∈
      [(Instr.frameEnd (.recv a 0x0000 []), (0x08 : Byte)), (Instr.frameOther t (.recv a 0x0000 []), t)] := by
  simp

theorem witness_OpcodeRowsAreSent :
    quiet.rx.state = .idle ∧ quiet.tx.state = .idle ∧ (List.replicate 65532 (0x00 : Byte)).length ≤ 65532 ∧
      (Instr.opcStore (.send []), (0x06 : Byte)) ∈ [(Instr.opcStore (.send []), (0x06 : Byte))] :=
  ⟨rfl, rfl, by rw [List.length_replicate], by decide⟩

theorem witness_OpcodeRowsArrive (a : Addr) :
    (Instr.opcLoad (.recv a 0x0003 [0x00, 0x0B]), (0x07 : Byte)) ∈
      [(Instr.opcLoad (.recv a 0x0003 [0x00, 0x0B]), (0x07 : Byte))] := by
  simp

theorem witness_StatusRowsAreSent :
    quiet.rx.state = .idle ∧ quiet.tx.state = .idle ∧ (List.replicate 65532 (0x00 : Byte)).length ≤ 65532 ∧
      (Instr.stOk (.send []), (0x00 : Byte)) ∈ [(Instr.stOk (.send []), (0x00 : Byte))] :=
  ⟨rfl, rfl, by rw [List.length_replicate], by decide⟩

theorem witness_StatusRowsArrive (a : Addr) :
    (Instr.stRxErr (.recv a 0x0003 [0x00, 0x0B]), (0x01 : Byte)) ∈
      [(Instr.stRxErr (.recv a 0x0003 [0x00, 0x0B]), (0x01 : Byte))] := by
  simp

/-- Busy on either side, with an `ENCODE` and with a `DECODE`; not busy, with one byte too many. -/
theorem witness_BusyOrLongRequestIsRefused :
    ((hunting []).rx.state ≠ .idle ∧ request (.encode 0x01 [0x01]) ≠ none) ∧
    ((sending 0x07 [] (reference [])).tx.state ≠ .idle ∧ Instr.decode = Instr.decode) ∧
    (quiet.rx.state = .idle ∧ quiet.tx.state = .idle ∧
      request (.data (List.replicate 65534 0x00)) = some (0x02, List.replicate 65534 0x00) ∧
      65533 < (List.replicate 65534 (0x00 : Byte)).length) :=
  ⟨⟨by decide, by decide⟩, ⟨by decide, rfl⟩, ⟨rfl, rfl, rfl, by rw [List.length_replicate]; decide⟩⟩

theorem witness_FrameLayout :
    ([] : List Byte).length ≤ 65533 ∧ (List.replicate 65533 (0x00 : Byte)).length ≤ 65533 :=
  ⟨by decide, by rw [List.length_replicate]⟩

theorem witness_ChecksumBlindToOrder : [(0x00 : Byte), 0x01].Perm [0x01, 0x00] := .swap _ _ _

theorem witness_ChecksumSeesOneChangedByte : (0x00 : Byte) ≠ 0xFF ∧ (0x01 : Byte) ≠ 0x02 := by decide

/-- V-TX10, and V-RX1 with the frame of V-TX10. -/
theorem witness_FrameDeterminesTypeAndPayload :
    frame 0x07 [0x00] = frame 0x07 [0x00] ∧
    ((frame 0x07 [0x00]).take 1 = [0xEF] ∧ ((frame 0x07 [0x00]).drop 2).take 4 = [0xFF, 0xFF, 0xFF, 0xFF] ∧
      State.reset.par.chkVerify = true ∧
      decodeRun State.reset.par ((frame 0x07 [0x00]).map LineEvent.byte) = (.reply [0x07, 0x00], [])) := by
  decide

/-- The first byte accepted, and refused. -/
theorem witness_TxSendStep :
    ((sending 0x07 [] (oracle [] [true])).host.delays = [] ∧ (sending 0x07 [] (oracle [] [true])).tx.state = .send ∧
      (sending 0x07 [] (oracle [] [true])).tx.buf[(sending 0x07 [] (oracle [] [true])).tx.idx]? = some 0xEF ∧
      ((oracle [] [true]).write 0xEF).1 = true) ∧
    (sending 0x07 [] (oracle [] [false])).tx.buf[(sending 0x07 [] (oracle [] [false])).tx.idx]? = some 0xEF ∧
      ((oracle [] [false]).write 0xEF).1 = false :=
  ⟨⟨rfl, rfl, rfl, rfl⟩, rfl, rfl⟩

/-- The flush accepted, and refused; the shortest frame accepted whole. -/
theorem witness_EncodeCompletesOnTheLine :
    ((flushing 0x07 [] (oracle [] [true])).host.delays = [] ∧ (flushing 0x07 [] (oracle [] [true])).tx.state = .flush ∧
      (oracle [] [true]).flush.1 = true ∧ (oracle [] [false]).flush.1 = false) ∧
    ((sending 0x07 [] (oracle [] (List.replicate 12 true))).tx =
        { state := .send, buf := frame 0x07 [], idx := 0, res := .none } ∧
      (oracle [] (List.replicate 12 true)).isOpen = true ∧ (oracle [] (List.replicate 12 true)).kind = .oracle ∧
      (oracle [] (List.replicate 12 true)).answers = List.replicate (([] : List Byte).length + 12) true ++ []) :=
  ⟨⟨rfl, rfl, rfl, rfl⟩, rfl, rfl, rfl, rfl⟩

/-- The first call fails (`k` = 0), and the flush fails (`k` = 11). -/
theorem witness_EncodeFailsAtAnyCall :
    ((sending 0x07 [] (oracle [] [false])).host.delays = [] ∧
      (sending 0x07 [] (oracle [] [false])).tx = { state := .send, buf := frame 0x07 [], idx := 0, res := .none } ∧
      (oracle [] [false]).isOpen = true ∧ (oracle [] [false]).kind = .oracle ∧ 0 < ([] : List Byte).length + 12 ∧
      (oracle [] [false]).answers = List.replicate 0 true ++ false :: []) ∧
    (11 < ([] : List Byte).length + 12 ∧
      (oracle [] (List.replicate 11 true ++ [false])).answers = List.replicate 11 true ++ false :: []) :=
  ⟨⟨rfl, rfl, rfl, rfl, by decide, rfl⟩, by decide, rfl⟩

theorem witness_EncodeOverReferenceTransport :
    quiet.rx.state = .idle ∧ quiet.tx.state = .idle ∧ ([] : List Byte).length ≤ 65533 ∧ quiet.host.delays = [] ∧
      quiet.line.isOpen = true ∧ quiet.line.kind = .reference ∧ quiet.line.sendBuf = [] := by
  decide

theorem witness_EncodeAlwaysEnds :
    (sending 0x07 [] (oracle [] [])).host.delays = [] ∧
      (sending 0x07 [] (oracle [] [])).tx = { state := .send, buf := frame 0x07 [], idx := 0, res := .none } := by
  decide

/-- The program `VERIFY_PWD`, `RESET`. -/
theorem witness_EveryOperationEndsOverTheReferenceTransport :
    let prog : List Instr := [.verifyPwd, .reset]
    let s := { quiet with host := { quiet.host with ops := prog.flatMap encode } }
    s.host.delays = [] ∧ s.rx.state = .idle ∧ s.tx.state = .idle ∧ s.line.isOpen = true ∧
      s.line.kind = .reference ∧ ([] : List Byte).length ≤ 65533 ∧ prog ≠ [] ∧
      (∀ i ∈ prog, i.wellFormed = true) ∧ s.host.ops = prog.flatMap encode ∧ s.host.task = .none ∧
      s.host.calls = [] ∧ request .verifyPwd = some (0x01, [0x13, 0x00, 0x00, 0x00, 0x00]) ∧
      [(0x13 : Byte), 0x00, 0x00, 0x00, 0x00].length ≤ 65533 ∧ request .reset = none := by
  decide

theorem witness_WriteAndFlushEffects :
    (oracle [] [true]).kind = .oracle ∧
      ((oracle [] [true]).write 0xEF).1 = true ∧ ((oracle [] [false]).write 0xEF).1 = false ∧
      (oracle [] [true]).flush.1 = true ∧ (oracle [] [false]).flush.1 = false :=
  ⟨rfl, rfl, rfl, rfl, rfl⟩

/-- The bytes next to `0xEF`, and `0xEF`. -/
theorem witness_HuntStep :
    (hunting [.byte 0xEE]).host.delays = [] ∧ (hunting [.byte 0xEE]).tx.state = .idle ∧
      (hunting [.byte 0xEE]).rx.state = .hunt ∧
      (hunting [.byte 0xEE]).line.read = (.byte 0xEE, reference []) ∧ (0xEE : Byte) ≠ 0xEF ∧
      (hunting [.byte 0xEF]).line.read = (.byte 0xEF, reference []) := by
  decide

theorem witness_HuntDiscardsAnyNumberOfBytes :
    (hunting [.byte 0x00, .byte 0xF0]).host.delays = [] ∧ (hunting [.byte 0x00, .byte 0xF0]).tx.state = .idle ∧
      (hunting [.byte 0x00, .byte 0xF0]).rx.state = .hunt ∧
      (hunting [.byte 0x00, .byte 0xF0]).line.isOpen = true ∧
      (hunting [.byte 0x00, .byte 0xF0]).line.lineIn = [(0x00 : Byte), 0xF0].map LineEvent.byte ++ [] ∧
      ∀ b ∈ [(0x00 : Byte), 0xF0], b ≠ 0xEF := by
  decide

/-- The second and the eighth byte; a wrong low marker byte; the lengths 1 and 65535 against a `MAXLEN` of 65534;
the lengths 2 and `MAXLEN`. -/
theorem witness_HeadStep :
    ((inHead [0xEF] [.byte 0x01]).host.delays = [] ∧ (inHead [0xEF] [.byte 0x01]).tx.state = .idle ∧
      (inHead [0xEF] [.byte 0x01]).rx.state = .head ∧
      (inHead [0xEF] [.byte 0x01]).line.read = (.byte 0x01, reference []) ∧ (inHead [0xEF] []).rx.cnt + 1 ≠ 9 ∧
      (inHead [0xEF, 0x01, 0xFF, 0xFF, 0xFF, 0xFF, 0x07] []).rx.cnt + 1 ≠ 9) ∧
    ((inHead [0xEF, 0x02, 0xFF, 0xFF, 0xFF, 0xFF, 0x07, 0x00] [.byte 0x02]).rx.cnt = 8 ∧
      ¬((0xEF : Byte) = 0xEF ∧ (0x02 : Byte) = 0x01)) ∧
    (256 * (0x00 : Byte).toNat + (0x01 : Byte).toNat < 2 ∧
      (0xFFFE : Word16).toNat < 256 * (0xFF : Byte).toNat + (0xFF : Byte).toNat) ∧
    (2 ≤ 256 * (0x00 : Byte).toNat + (0x02 : Byte).toNat ∧
      256 * (0xFF : Byte).toNat + (0xFF : Byte).toNat ≤ State.reset.par.maxLen.toNat) := by
  decide

/-- The last payload byte (index 9 of a frame with `LEN` 3), and the high checksum byte. -/
theorem witness_BodyStep :
    let s := inBody [0xEF, 0x01, 0xFF, 0xFF, 0xFF, 0xFF, 0x07, 0x00, 0x03] 0x0003 0x000A [.byte 0x00]
    let u := inBody [0xEF, 0x01, 0xFF, 0xFF, 0xFF, 0xFF, 0x07, 0x00, 0x03, 0x00] 0x0003 0x000A [.byte 0x00]
    (s.host.delays = [] ∧ s.tx.state = .idle ∧ s.rx.state = .body ∧ s.line.read = (.byte 0x00, reference []) ∧
      s.rx.cnt + 1 ≠ 9 + s.rx.len.toNat ∧ s.rx.cnt < 7 + s.rx.len.toNat) ∧
    (u.line.read = (.byte 0x00, reference []) ∧ u.rx.cnt + 1 ≠ 9 + u.rx.len.toNat ∧
      ¬u.rx.cnt < 7 + u.rx.len.toNat) := by
  decide

/-- The shortest frame: its checksum right, and one too high. -/
theorem witness_LastByteStep :
    let s := inBody [0xEF, 0x01, 0xFF, 0xFF, 0xFF, 0xFF, 0x07, 0x00, 0x02, 0x00] 0x0002 0x0009 [.byte 0x09]
    let u := inBody [0xEF, 0x01, 0xFF, 0xFF, 0xFF, 0xFF, 0x07, 0x00, 0x02, 0x00] 0x0002 0x0009 [.byte 0x0A]
    (s.host.delays = [] ∧ s.tx.state = .idle ∧ s.rx.state = .body ∧ s.line.read = (.byte 0x09, reference []) ∧
      s.rx.len.toNat = ([] : List Byte).length + 2 ∧ s.rx.cnt = 8 + s.rx.len.toNat ∧
      s.rx.buf = 0xEF :: 0x01 :: 0xFF :: 0xFF :: 0xFF :: 0xFF :: 0x07 :: 0x00 :: 0x02 :: ([] ++ [0x00]) ∧
      256 * (0x00 : Byte).toNat + (0x09 : Byte).toNat = s.rx.sum.toNat) ∧
    (u.line.read = (.byte 0x0A, reference []) ∧ u.par.chkVerify = true ∧
      256 * (0x00 : Byte).toNat + (0x0A : Byte).toNat ≠ u.rx.sum.toNat) := by
  decide

/-- Both failures, in HUNT, HEAD and BODY. -/
theorem witness_ReadFailuresEndTheDecode :
    ((hunting [.timeout]).host.delays = [] ∧ (hunting [.timeout]).tx.state = .idle ∧
      (hunting [.timeout]).rx.state ≠ .idle ∧ (hunting [.timeout]).line.read = (.timeout, reference [])) ∧
    ((inHead [0xEF] [.error]).rx.state ≠ .idle ∧ (inHead [0xEF] [.error]).line.read = (.error, reference [])) ∧
    ((inBody [] 0x0003 0x000A []).rx.state ≠ .idle ∧
      (inBody [] 0x0003 0x000A []).line.read = (.timeout, reference [])) := by
  decide

theorem witness_DecodeStepsEqualDecodeRun :
    (hunting [.byte 0xEF]).host.delays = [] ∧ (hunting [.byte 0xEF]).tx.state = .idle ∧
      (hunting [.byte 0xEF]).rx = { state := .hunt, buf := [], cnt := 0, len := 0, sum := 0, res := .none } ∧
      (hunting [.byte 0xEF]).line.isOpen = true ∧ (hunting [.byte 0xEF]).line.kind = .reference := by
  decide

/-- V-RX4, and a payload of exactly `MAXLEN - 2` bytes. -/
theorem witness_DecodeOfFrameIsItsReply :
    let es := ([0x00, 0x3C] ++ frame 0x07 [0x00]).map LineEvent.byte ++ [LineEvent.timeout]
    ([(0x00 : Byte)].length + 2 ≤ (0x0003 : Word16).toNat ∧ (∀ b ∈ [(0x00 : Byte), 0x3C], b ≠ 0xEF)) ∧
      (hunting es).host.delays = [] ∧ (hunting es).tx.state = .idle ∧
      (hunting es).rx = { state := .hunt, buf := [], cnt := 0, len := 0, sum := 0, res := .none } ∧
      (hunting es).line.isOpen = true ∧ (hunting es).line.lineIn = es := by
  decide

/-- The right checksum with `CHK_VERIFY`, and a wrong one without. -/
theorem witness_AnyAddressIsAccepted :
    ([] : List Byte).length + 2 ≤ (0x0002 : Word16).toNat ∧ chk 0x07 [] = chk 0x07 [] ∧
      ({ chkVerify := false, maxLen := 0x0002 } : Params).chkVerify = false ∧ (0x0000 : Word16) ≠ chk 0x07 [] := by
  decide

/-- V-RX24. -/
theorem witness_StrayMarkerByteCostsTheFrame :
    let es := (0xEF :: frame 0x07 [0x00]).map LineEvent.byte ++ []
    [(0x00 : Byte)].length ≤ 65533 ∧ (hunting es).host.delays = [] ∧ (hunting es).tx.state = .idle ∧
      (hunting es).rx = { state := .hunt, buf := [], cnt := 0, len := 0, sum := 0, res := .none } ∧
      (hunting es).line.isOpen = true ∧ (hunting es).line.lineIn = es := by
  decide

/-- V-RX17 and V-RX18. -/
theorem witness_WrongChecksum :
    let es := (txHeader 0x07 [0x00] ++ [0x00] ++ [hi8 0x000B, lo8 0x000B]).map LineEvent.byte ++ []
    [(0x00 : Byte)].length + 2 ≤ (hunting es).par.maxLen.toNat ∧ (0x000B : Word16) ≠ chk 0x07 [0x00] ∧
      (hunting es).host.delays = [] ∧ (hunting es).tx.state = .idle ∧
      (hunting es).rx = { state := .hunt, buf := [], cnt := 0, len := 0, sum := 0, res := .none } ∧
      (hunting es).line.isOpen = true ∧ (hunting es).line.lineIn = es := by
  decide

/-- One stream for each outcome: V-RX3, V-RX14, V-RX16, V-RX17, V-RX8, a `Timeout` event, V-RX22. -/
theorem witness_BytesConsumedByOutcome :
    decodeRun State.reset.par ((frame 0x07 []).map LineEvent.byte) = (.reply [0x07], []) ∧
    (decodeRun State.reset.par
      ([0xEF, 0x02, 0xFF, 0xFF, 0xFF, 0xFF, 0x07, 0x00, 0x03].map LineEvent.byte)).1 = .err .badData .marker ∧
    (decodeRun State.reset.par
      ([0xEF, 0x01, 0xFF, 0xFF, 0xFF, 0xFF, 0x07, 0x00, 0x01].map LineEvent.byte)).1 = .err .badData .length ∧
    (decodeRun State.reset.par
      ([0xEF, 0x01, 0xFF, 0xFF, 0xFF, 0xFF, 0x07, 0x00, 0x03, 0x00, 0x00, 0x0B].map LineEvent.byte)).1 =
      .err .badData .checksum ∧
    decodeRun State.reset.par [] = (.err .notResponding .none, []) ∧
    decodeRun State.reset.par [.timeout, .byte 0x00] = (.err .notResponding .none, [.byte 0x00]) ∧
    decodeRun State.reset.par [.error] = (.err .cantRead .none, []) := by
  decide

/-- The framer's invariant holds where both halves are IDLE. -/
theorem framerInv_of_idle {s : State} (o : RxRes) (u : TxRes) (hr : s.rx = Rx.idleWith o) (ht : s.tx = Tx.idleWith u) :
    FramerInv s := by
  constructor
  · rw [hr]; constructor <;> simp [Rx.idleWith]
  · rw [ht]; constructor <;> simp [Tx.idleWith]
  · rw [hr]; simp [Rx.idleWith]

theorem witness_StepKeepsInv : FramerInv quiet ∧ ∃ s', step quiet = .next s' :=
  ⟨framerInv_of_idle .none .none rfl rfl, _, rfl⟩

theorem witness_NoRunReadsAnUnwrittenByte : FramerInv quiet := framerInv_of_idle .none .none rfl rfl

theorem witness_StepKeepsOutcomesLegal : OutcomesLegal quiet ∧ ∃ s', step quiet = .next s' := by
  refine ⟨?_, _, rfl⟩
  constructor <;> simp [quiet, State.reset, Rx.idleWith, Tx.idleWith]

theorem witness_CountsFitSeventeenBits : FramerInv quiet := framerInv_of_idle .none .none rfl rfl

/-- A flush that is answered, and the next step ends the operation. -/
theorem witness_EndedOperationLeavesResetState :
    FramerInv (flushing 0x07 [] (reference [])) ∧ (flushing 0x07 [] (reference [])).busy = true ∧
      ∃ s', step (flushing 0x07 [] (reference [])) = .next s' ∧ s'.busy = false := by
  refine ⟨?_, rfl, _, rfl, rfl⟩
  constructor
  · constructor <;> simp [flushing, quiet, State.reset, Rx.idleWith]
  · exact ⟨(fun h => nomatch h), (fun h => nomatch h), fun _ => ⟨⟨0x07, [], by decide, rfl⟩, rfl, rfl⟩⟩
  · simp [flushing, quiet, State.reset, Rx.idleWith]

theorem witness_ParametersAreNeverWritten : ∃ s', step quiet = .next s' := ⟨_, rfl⟩

/-- A step of the TX framer and a step of the RX deframer. -/
theorem witness_OnlyReadsTakeFromTheQueue :
    ((∃ s', step (sending 0x07 [] (reference [])) = .next s') ∧
      (sending 0x07 [] (reference [])).rx.state = .idle) ∧
    (∃ s', step (hunting [.byte 0x00]) = .next s') ∧ (hunting [.byte 0x00]).rx.state ≠ .idle :=
  ⟨⟨⟨_, rfl⟩, rfl⟩, ⟨_, rfl⟩, by decide⟩

theorem witness_OnlyTxWritesTheLine :
    (∃ s', step (hunting [.byte 0x00]) = .next s') ∧ (hunting [.byte 0x00]).tx.state = .idle := ⟨⟨_, rfl⟩, rfl⟩

theorem witness_EachHalfLeavesTheOtherAlone :
    ((sending 0x07 [] (reference [])).host.delays = [] ∧ (∃ s', step (sending 0x07 [] (reference [])) = .next s') ∧
      (sending 0x07 [] (reference [])).tx.state ≠ .idle) ∧
    ((hunting []).host.delays = [] ∧ (∃ s', step (hunting []) = .next s') ∧ (hunting []).tx.state = .idle ∧
      (hunting []).rx.state ≠ .idle) :=
  ⟨⟨rfl, ⟨_, rfl⟩, by decide⟩, rfl, ⟨_, rfl⟩, rfl, by decide⟩

/-- `RESET` at the head of the host's operations. -/
def withReset (ds : List (Option Nat)) : State :=
  { quiet with host := { quiet.host with ops := [0x52, 0x45, 0x53, 0x45, 0x54, 0x0A], delays := ds } }

theorem witness_StepRunsTheDecodedInstruction :
    decode (withReset []).host.ops = .ok (.reset, []) ∧
    ((withReset []).host.delays = [] ∧ (withReset []).rx.state = .idle ∧ (withReset []).tx.state = .idle ∧
      (withReset []).host.task = .none) ∧
    (withReset [some 0]).host.delays = some 0 :: [] :=
  ⟨rfl, ⟨rfl, rfl, rfl, rfl⟩, rfl⟩

theorem witness_StepRefusesWhatIsNoOperation :
    let s := { quiet with host := { quiet.host with ops := [0x00] } }
    s.host.ops ≠ [] ∧ decode s.host.ops = .error .unknownOperation ∧ s.host.delays = [] ∧ s.rx.state = .idle ∧
      s.tx.state = .idle ∧ s.host.task = .none :=
  ⟨by decide, rfl, rfl, rfl, rfl, rfl⟩

theorem witness_IdleBlockDoesNothing :
    quiet.host.ops = [] ∧ quiet.host.calls = [] ∧ quiet.host.delays = [] ∧ quiet.host.task = .none ∧
      quiet.rx.state = .idle ∧ quiet.tx.state = .idle := by
  decide

theorem witness_DecodeOfEncode : Instr.wellFormed (.opcVerifyPwd (.send [0x00, 0x00, 0x00, 0x00])) = true := by decide

theorem witness_EncodeOfDecode : decode [0x52, 0x45, 0x53, 0x45, 0x54, 0x0A, 0x00] = .ok (.reset, [0x00]) := rfl

theorem witness_ExchangeDeliversTheReply :
    let s := { quiet with line := reference (([0x00] ++ frame 0x07 [0x00]).map LineEvent.byte ++ []) }
    s.rx.state = .idle ∧ s.tx.state = .idle ∧ s.host.delays = [] ∧ ([] : List Byte).length ≤ 65533 ∧
      [(0x00 : Byte)].length + 2 ≤ s.par.maxLen.toNat ∧ (∀ b ∈ [(0x00 : Byte)], b ≠ 0xEF) ∧
      s.line.isOpen = true ∧ s.line.kind = .reference ∧ s.line.sendBuf = [] ∧
      s.line.lineIn = ([0x00] ++ frame 0x07 [0x00]).map LineEvent.byte ++ [] := by
  decide

/-- A failed request of an exchange, and a failed Reply of a handshake. -/
theorem witness_ExchangeHandsFailuresOn :
    let s := { quiet with
      tx := Tx.idleWith (.err .cantWrite .none), host := { quiet.host with task := .sending .exchange } }
    let u := received .handshake (.err .notResponding .none)
    (s.host.delays = [] ∧ s.rx.state = .idle ∧ s.tx.state = .idle ∧ s.host.task = .sending .exchange ∧
      s.tx.res = .err .cantWrite .none) ∧
    (u.host.delays = [] ∧ u.rx.state = .idle ∧ u.tx.state = .idle ∧ u.host.task = .receiving .handshake ∧
      u.rx.res = .err .notResponding .none) := by
  decide

/-- A handshake that succeeds, and a `close`. -/
theorem witness_SessionStateChangesOnlySo :
    let s := received .handshake (.reply [0x07, 0x00])
    let u := { quiet with host := { quiet.host with conn := .connected, calls := [⟨.close, []⟩] } }
    (s.host.conn = .disconnected ∧ after (step s) (fun s' => s'.host.conn) = some .connected) ∧
    (u.host.conn = .connected ∧ after (step u) (fun s' => s'.host.conn) = some .disconnected) := by
  decide

/-- Each kind of exchange, with a Reply for each clause; one byte alone is the shortest Reply. -/
theorem witness_RepliesAreClassified (g : Goal) (r : List Byte) :
    ((received g (.reply r)).host.delays = [] ∧ (received g (.reply r)).rx.state = .idle ∧
      (received g (.reply r)).tx.state = .idle ∧ (received g (.reply r)).rx.res = .reply r ∧
      (received g (.reply r)).host.task = .receiving g) ∧
    (∃ x : List Byte, ([0x07, 0x00] : List Byte) = 0x07 :: 0x00 :: x) ∧
    (∃ x : List Byte, ([0x07, 0x00, 0x00, 0x01, 0x00] : List Byte) = 0x07 :: 0x00 :: x ∧ x.length < 4) ∧
    (¬∃ x : List Byte, ([0x07] : List Byte) = 0x07 :: 0x00 :: x) ∧
    (¬∃ x : List Byte, ([0x07] : List Byte) = 0x07 :: 0x09 :: x) ∧
    (¬∃ x : List Byte, ([0x07] : List Byte) = 0x07 :: 0x0A :: x) :=
  ⟨⟨rfl, rfl, rfl, rfl, rfl⟩, ⟨[], rfl⟩, ⟨[0x00, 0x01, 0x00], rfl, by decide⟩, by simp, by simp, by simp⟩

theorem witness_UploadCollectsPackets :
    let s := received (.modelData []) (.reply [0x02])
    let u := received (.modelData []) (.reply [0x08])
    let v := received (.modelData []) (.reply [0x07])
    s.host.delays = [] ∧ s.rx.state = .idle ∧ s.tx.state = .idle ∧ s.rx.res = .reply (0x02 :: []) ∧
      s.host.task = .receiving (.modelData []) ∧ u.rx.res = .reply (0x08 :: []) ∧ v.rx.res = .reply (0x07 :: []) ∧
      (0x07 : Byte) ≠ 0x02 ∧ (0x07 : Byte) ≠ 0x08 := by
  decide

theorem witness_SaveModelSendsFourPackets (c : List Byte) (hc : c = List.replicate 128 0x00) :
    let s := received (.saveDownload (c ++ c ++ c ++ c) 0x0007) (.reply [0x07, 0x00])
    s.host.delays = [] ∧ s.rx.state = .idle ∧ s.tx.state = .idle ∧ c.length = 128 ∧
      s.rx.res = .reply (0x07 :: 0x00 :: []) ∧ s.host.task = .receiving (.saveDownload (c ++ c ++ c ++ c) 0x0007) ∧
      s.line.isOpen = true ∧ s.line.kind = .reference ∧ s.line.sendBuf = [] :=
  ⟨rfl, rfl, rfl, by rw [hc, List.length_replicate], rfl, rfl, rfl, rfl, rfl⟩

/-- A session call still to be begun, with the delays `ds`. -/
def calling (c : Call) (conn : Conn) (ds : List (Option Nat)) : State :=
  { quiet with host := { quiet.host with conn := conn, calls := [⟨c, []⟩], delays := ds } }

/-- A call before `connect()`, a template one byte short, and `close` in its turn and out of turn. -/
theorem witness_SessionCallsAreGated :
    let s := calling .hasFingerprint .disconnected []
    let c : Call := .saveModel (List.replicate 511 0x00) 0x0000 []
    (s.host.ops = [] ∧ s.host.calls = ⟨.hasFingerprint, []⟩ :: [] ∧ s.host.delays = [] ∧ s.rx.state = .idle ∧
      s.tx.state = .idle ∧ s.host.task = .none ∧ s.host.conn = .disconnected ∧ Call.hasFingerprint ≠ .connect ∧
      Call.hasFingerprint ≠ .close) ∧
    ((calling c .connected []).host.calls = ⟨c, []⟩ :: [] ∧ (calling c .connected []).host.conn = .connected ∧
      (List.replicate 511 (0x00 : Byte)).length ≠ 512) ∧
    ((calling .close .connected []).host.calls = ⟨.close, []⟩ :: [] ∧ (calling .close .connected []).host.delays = [] ∧
      (calling .close .connected [some 0]).host.delays = some 0 :: []) :=
  ⟨⟨rfl, rfl, rfl, rfl, rfl, rfl, rfl, by decide, by decide⟩, ⟨rfl, rfl, by rw [List.length_replicate]; decide⟩,
    rfl, rfl, rfl⟩

end Sys2Proof.Tests
end

/-! # The host's turn: how the next operation is fetched (R7, R180, R240) -/

namespace Sys2Proof.Proofs

open Sys2Proof.Machine

/-- The empty stream decodes to nothing. -/
theorem ops_ne_nil_of_decode_ok {ops bs : List Byte} {i : Instr} (h : decode ops = .ok (i, bs)) : ops ≠ [] := by
  rintro rfl
  cases h

/-- R180: while operations are left, the host's move is to fetch the next one; the session calls wait. -/
theorem hostMove_of_ops_ne_nil {s : State} (h : s.host.ops ≠ []) : hostMove s = fetch s := by
  unfold hostMove
  split
  case h_1 => rfl
  case h_2 hops _ => exact absurd hops h
  case h_3 hops _ => exact absurd hops h

/-- R180: what decodes is issued, at the state whose stream is moved past its word. -/
theorem fetch_of_decode_ok {s : State} {i : Instr} {bs : List Byte} (h : decode s.host.ops = .ok (i, bs)) :
    fetch s = exec i (s.setHost { s.host with ops := bs }) := by
  simp only [fetch, h]

/-- R180: the host's move when an instruction stands at the head of its stream. -/
theorem hostMove_of_decode_ok {s : State} {i : Instr} {bs : List Byte} (h : decode s.host.ops = .ok (i, bs)) :
    hostMove s = exec i (s.setHost { s.host with ops := bs }) :=
  (hostMove_of_ops_ne_nil (ops_ne_nil_of_decode_ok h)).trans (fetch_of_decode_ok h)

/-- R240: with a delay that has run out the host moves, whoever is at work, and the delay is removed. -/
theorem step_of_delay_zero {s : State} {ds : List (Option Nat)} (h : s.host.delays = some 0 :: ds) :
    step s = hostMove (s.setHost { s.host with delays := ds }) := by
  simp only [step, oneStep, h]

/-- Settles O48: in its turn and out of turn the step is the host's move, and that move executes what is decoded. -/
theorem stepRunsTheDecodedInstruction : Obligations.StepRunsTheDecodedInstruction := by
  intro s i bs hdec
  constructor
  · intro hdelays hrx htx htask
    exact (step_host hdelays hrx htx htask).trans (hostMove_of_decode_ok hdec)
  · intro ds hdelays
    have hdec' : decode (s.setHost { s.host with delays := ds }).host.ops = .ok (i, bs) := hdec
    exact (step_of_delay_zero hdelays).trans (hostMove_of_decode_ok hdec')

end Sys2Proof.Proofs


/-! # What holds in every state (R35, R26, R30), and what an operation leaves behind (R38) -/

namespace Sys2Proof.Proofs

open Sys2Proof.Machine

/-! ## What one step does to the two halves -/

/-- What a TX step does to the TX half (R123 to R125), whatever the transport answers. -/
inductive TxHalfEffect (t t' : Tx) : Prop where
  /-- R123 -/
  | sent (hs : t.state = .send) (hi : t.idx < t.buf.length)
      (he : t' = { t with idx := t.idx + 1, state := if t.idx + 1 < t.buf.length then .send else .flush })
  /-- R125 -/
  | failed (he : t' = Tx.idleWith (.err .cantWrite .none))
  /-- R124 -/
  | flushed (he : t' = Tx.idleWith .done)

/-- What one step does to the two halves: a move of the host (R120, R140, R240), or a step of one half, which leaves the
other as it is (R223). -/
inductive HalvesEffect (s s' : State) : Prop where
  | host (h : FramerEffect s s')
  | tx (hb : s.tx.state ≠ .idle) (hr : s'.rx = s.rx) (ht : TxHalfEffect s.tx s'.tx)
  | rx (hb : s.tx.state = .idle) (hr : RxEffect s.par s.rx s'.rx) (ht : s'.tx = s.tx)

/-- A TX step changes neither the parameters nor the RX half. -/
theorem txEffect_halves {s s' : State} (h : TxEffect s s') :
    s'.par = s.par ∧ s'.rx = s.rx ∧ TxHalfEffect s.tx s'.tx := by
  cases h with
  | sent b hs hb he =>
    subst he
    exact ⟨rfl, rfl, .sent hs (List.getElem?_eq_some_iff.1 hb).1 rfl⟩
  | failed l hl he => subst he; exact ⟨rfl, rfl, .failed rfl⟩
  | flushed hs he => subst he; exact ⟨rfl, rfl, .flushed rfl⟩

/-- The inversion of a step that the statements about the framer start from. -/
theorem step_halves {s s' : State} (h : step s = .next s') : s'.par = s.par ∧ HalvesEffect s s' := by
  obtain hhost | ⟨ds, hb, htx, -⟩ | ⟨ds, ht, hr, hrx, he, -⟩ := step_cases h
  · exact ⟨hhost.par, .host hhost.framer⟩
  · obtain ⟨hpar, hrx, hhalf⟩ := txEffect_halves htx
    exact ⟨hpar, .tx hb hrx hhalf⟩
  · have hpar : s'.par = s.par := by rw [he]; rfl
    have htx : s'.tx = s.tx := by rw [he]; rfl
    exact ⟨hpar, .rx ht hrx htx⟩

/-- Settles O44: no part of a step changes the parameters. -/
theorem parametersAreNeverWritten : Obligations.ParametersAreNeverWritten :=
  fun _ _ h => (step_halves h).1

/-! ## The items of R35 in the states a half can be put into -/

/-- R35 item 2 in the form every end of a `DECODE` and `RESET` leave (R151, R154, R240). -/
theorem rxInv_idleWith (par : Params) (o : RxRes) : RxInv par (Rx.idleWith o) where
  count := rfl
  idle _ := ⟨rfl, rfl, rfl⟩
  hunt h := nomatch h
  head h := nomatch h
  body h := nomatch h

/-- R140: the RX half at the start of a `DECODE`. -/
theorem rxInv_startHunt (par : Params) :
    RxInv par { state := .hunt, buf := [], cnt := 0, len := 0, sum := 0, res := .none } where
  count := rfl
  idle h := nomatch h
  hunt _ := ⟨rfl, rfl, rfl, rfl⟩
  head h := nomatch h
  body h := nomatch h

/-- R35 in HEAD: items 1 and 4 are all there is to show. -/
theorem rxInv_of_head {par : Params} {r : Rx} (hs : r.state = .head) (hcount : r.cnt = r.buf.length)
    (hlo : 1 ≤ r.cnt) (hhi : r.cnt ≤ 8) (h0 : r.buf[0]? = some 0xEF) (hlen : r.len = 0) (hsum : r.sum = 0)
    (hres : r.res = .none) : RxInv par r where
  count := hcount
  idle h := by simp [hs] at h
  hunt h := by simp [hs] at h
  head _ := ⟨hlo, hhi, h0, hlen, hsum, hres⟩
  body h := by simp [hs] at h

/-- R35 in BODY: item 1 and what it says of BODY are all there is to show. -/
theorem rxInv_of_body {par : Params} {r : Rx} (hs : r.state = .body) (hcount : r.cnt = r.buf.length)
    (hbody : 9 ≤ r.cnt ∧ r.cnt ≤ 8 + r.len.toNat ∧ r.buf[0]? = some 0xEF ∧ r.buf[1]? = some 0x01 ∧
      (∃ h l, r.buf[7]? = some h ∧ r.buf[8]? = some l ∧ r.len = be16 h l) ∧
      2 ≤ r.len.toNat ∧ r.len.toNat ≤ par.maxLen.toNat ∧
      r.sum.toNat = byteSum ((r.buf.take (min r.cnt (7 + r.len.toNat))).drop 6) % 65536 ∧ r.res = .none) :
    RxInv par r where
  count := hcount
  idle h := by simp [hs] at h
  hunt h := by simp [hs] at h
  head h := by simp [hs] at h
  body _ := hbody

/-- R35 item 6 in the form every end of an `ENCODE` and `RESET` leave (R124, R125, R240). -/
theorem txInv_idleWith (u : TxRes) : TxInv (Tx.idleWith u) where
  idle _ := ⟨rfl, rfl⟩
  send h := nomatch h
  flush h := nomatch h

/-- R120: the TX half right after a frame was loaded. -/
theorem txInv_loadFrame (t : Byte) {p : List Byte} (hp : p.length ≤ 65533) :
    TxInv { state := .send, buf := frame t p, idx := 0, res := .none } where
  idle h := nomatch h
  send _ := ⟨⟨t, p, hp, rfl⟩, by simp, rfl⟩
  flush h := nomatch h

/-! ## R35 over a step of one half -/

/-- A byte that is in the buffer stays where it is when one is put behind it. -/
theorem getElem?_append_of_eq_some {xs ys : List Byte} {i : Nat} {b : Byte} (h : xs[i]? = some b) :
    (xs ++ ys)[i]? = some b := by
  rw [List.getElem?_append_left (List.getElem?_eq_some_iff.1 h).1, h]

/-- R147: what is summed of a nine-byte header is its last three bytes. -/
theorem byteSum_header {buf : List Byte} {t h l : Byte} (hlen : buf.length = 9) (h6 : buf[6]? = some t)
    (h7 : buf[7]? = some h) (h8 : buf[8]? = some l) :
    byteSum ((buf.take 9).drop 6) = t.toNat + h.toNat + l.toNat := by
  have hdrop : (buf.take 9).drop 6 = [t, h, l] := by
    apply List.ext_getElem?
    intro i
    rw [List.take_of_length_le hlen.le, List.getElem?_drop]
    match i with
    | 0 => exact h6
    | 1 => exact h7
    | 2 => exact h8
    | i + 3 => simp; omega
  simp [hdrop]; omega

/-- R148: a further byte adds to the sum exactly where its index lies below the checksum field, which begins at
`cut`. -/
theorem byteSum_summed_append {buf : List Byte} {cut : Nat} (b : Byte) (hbuf : 6 ≤ buf.length) :
    byteSum (((buf ++ [b]).take (min (buf.length + 1) cut)).drop 6) =
      byteSum ((buf.take (min buf.length cut)).drop 6) + if buf.length < cut then b.toNat else 0 := by
  by_cases hlt : buf.length < cut
  · have hnew : min (buf.length + 1) cut = (buf ++ [b]).length := by simp; omega
    have hold : min buf.length cut = buf.length := by omega
    rw [hnew, hold, List.take_length, List.take_length, List.drop_append_of_le_length hbuf]
    simp [hlt]
  · have hnew : min (buf.length + 1) cut = cut := by omega
    have hold : min buf.length cut = cut := by omega
    rw [hnew, hold, List.take_append_of_le_length (by omega)]
    simp [hlt]

/-- R148: RXSUM keeps up with the bytes summed, as a wrapping 16-bit register. -/
theorem toNat_sum_append {sum : Word16} {n : Nat} (b : Byte) (c : Prop) [Decidable c] (h : sum.toNat = n % 65536) :
    (if c then sum + b.zeroExtend 16 else sum).toNat = (n + if c then b.toNat else 0) % 65536 := by
  have hb := byte_lt b
  split
  · simp only [BitVec.toNat_add, BitVec.toNat_setWidth, h]; omega
  · simpa using h

/-- R35 items 1 to 5 are kept by every step of the RX deframer. -/
theorem rxEffect_keeps_inv {par : Params} {r r' : Rx} (h : RxEffect par r r') (inv : RxInv par r) : RxInv par r' := by
  have hcount := inv.count
  cases h with
  | discard hs he => subst he; exact inv
  | sync hs he =>
    obtain ⟨-, hlen, hsum, hres⟩ := inv.hunt hs
    subst he
    exact rxInv_of_head rfl rfl (by simp) (by simp) rfl hlen hsum hres
  | head b hs hc he =>
    obtain ⟨hlo, hhi, h0, hlen, hsum, hres⟩ := inv.head hs
    subst he
    exact rxInv_of_head hs (by simp [hcount]) (by simp) (by simp only; omega) (getElem?_append_of_eq_some h0) hlen hsum
      hres
  | accept b t h l hs hc h0 h1 h6 h7 h8 hlo hhi he =>
    obtain ⟨-, -, -, -, -, hres⟩ := inv.head hs
    have hbuf : (r.buf ++ [b]).length = 9 := by simp; omega
    have hcut : min (r.cnt + 1) (7 + (be16 h l).toNat) = 9 := by omega
    subst he
    refine rxInv_of_body rfl (by simp [hcount])
      ⟨by simp only; omega, by simp only; omega, h0, h1, ⟨h, l, h7, h8, rfl⟩, hlo, hhi, ?_, hres⟩
    simp only [hcut, byteSum_header hbuf h6 h7 h8, BitVec.toNat_ofNat]
  | body b hs hc he =>
    obtain ⟨hlo, hhi, h0, h1, ⟨h, l, h7, h8, hlen⟩, h2, hmax, hsum, hres⟩ := inv.body hs
    subst he
    refine rxInv_of_body hs (by simp [hcount])
      ⟨by simp only; omega, by simp only; omega, getElem?_append_of_eq_some h0, getElem?_append_of_eq_some h1,
        ⟨h, l, getElem?_append_of_eq_some h7, getElem?_append_of_eq_some h8, hlen⟩, h2, hmax, ?_, hres⟩
    rw [hcount] at hsum hlo
    simp only [hcount, byteSum_summed_append b (show 6 ≤ r.buf.length by omega)]
    exact toNat_sum_append b _ hsum
  | reply t p hs hp hl he => subst he; exact rxInv_idleWith par _
  | failed k c hk he => subst he; exact rxInv_idleWith par _

/-- R35 items 6 to 8 are kept by every step of the TX framer. -/
theorem TxHalfEffect.keeps_inv {t t' : Tx} (h : TxHalfEffect t t') (inv : TxInv t) : TxInv t' := by
  cases h with
  | sent hs hi he =>
    obtain ⟨hframe, -, hres⟩ := inv.send hs
    subst he
    by_cases hmore : t.idx + 1 < t.buf.length
    · simp only [hmore, if_true]
      exact ⟨(fun h => nomatch h), fun _ => ⟨hframe, hmore, hres⟩, (fun h => nomatch h)⟩
    · simp only [hmore, if_false]
      exact ⟨(fun h => nomatch h), (fun h => nomatch h), fun _ => ⟨hframe, by simp only; omega, hres⟩⟩
  | failed he => subst he; exact txInv_idleWith _
  | flushed he => subst he; exact txInv_idleWith _

/-! ## R35 over a step of the machine -/

/-- A host's move keeps R35: it starts a half only where none is busy. -/
theorem framerEffect_keeps_inv {s s' : State} (h : FramerEffect s s') (hpar : s'.par = s.par) (inv : FramerInv s) :
    FramerInv s' := by
  cases h with
  | same hr ht =>
    refine ⟨?_, ?_, ?_⟩
    · rw [hpar, hr]; exact inv.rx
    · rw [ht]; exact inv.tx
    · rw [hr, ht]; exact inv.apart
  | load hb hr t p hp ht =>
    obtain ⟨hidle, -⟩ := s.busy_eq_false_iff.1 hb
    refine ⟨?_, ?_, ?_⟩
    · rw [hpar, hr]; exact inv.rx
    · rw [ht]; exact txInv_loadFrame t hp
    · rw [hr]; exact fun ⟨hrx, _⟩ => hrx hidle
  | hunt hb ht hr =>
    obtain ⟨-, hidle⟩ := s.busy_eq_false_iff.1 hb
    refine ⟨?_, ?_, ?_⟩
    · rw [hr]; exact rxInv_startHunt _
    · rw [ht]; exact inv.tx
    · rw [ht]; exact fun ⟨_, htx⟩ => htx hidle
  | reset hr ht =>
    refine ⟨?_, ?_, ?_⟩
    · rw [hr]; exact rxInv_idleWith _ _
    · rw [ht]; exact txInv_idleWith _
    · rw [hr]; exact fun ⟨hrx, _⟩ => hrx rfl

/-- Settles O38: the host starts a half only where both are IDLE, and each half keeps its own items. -/
theorem stepKeepsInv : Obligations.StepKeepsInv := by
  intro s s' inv h
  obtain ⟨hpar, heffect⟩ := step_halves h
  cases heffect with
  | host heffect => exact framerEffect_keeps_inv heffect hpar inv
  | tx hb hr ht =>
    have hidle : s.rx.state = .idle := by
      by_contra hrx
      exact inv.apart ⟨hrx, hb⟩
    refine ⟨?_, ht.keeps_inv inv.tx, ?_⟩
    · rw [hpar, hr]; exact inv.rx
    · rw [hr]; exact fun ⟨hrx, _⟩ => hrx hidle
  | rx hb hr ht =>
    refine ⟨?_, ?_, ?_⟩
    · rw [hpar]; exact rxEffect_keeps_inv hr inv.rx
    · rw [ht]; exact inv.tx
    · rw [ht]; exact fun ⟨_, htx⟩ => htx hb

/-! ## No fault where R35 holds (R36) -/

/-- R145: the header check reads no position behind the ninth byte. -/
theorem headerCheck_not_fault {s : State} {r : Fault} (h : 9 ≤ s.rx.buf.length) : headerCheck s ≠ .fault r := by
  have written : ∀ i, i < 9 → ∃ b, s.rx.buf[i]? = some b := fun i hi =>
    ⟨_, List.getElem?_eq_getElem (by omega)⟩
  obtain ⟨m, h0⟩ := written 0 (by omega)
  obtain ⟨n, h1⟩ := written 1 (by omega)
  obtain ⟨t, h6⟩ := written 6 (by omega)
  obtain ⟨hi, h7⟩ := written 7 (by omega)
  obtain ⟨lo, h8⟩ := written 8 (by omega)
  simp only [headerCheck, h0, h1, h6, h7, h8]
  repeat' split
  all_goals simp

/-- R150, R151: the completion reads only what a whole frame has written. -/
theorem complete_not_fault {s : State} {r : Fault} (hlen : 2 ≤ s.rx.len.toNat)
    (h : 9 + s.rx.len.toNat ≤ s.rx.buf.length) : complete s ≠ .fault r := by
  have written : ∀ i, i < 9 + s.rx.len.toNat → ∃ b, s.rx.buf[i]? = some b := fun i hi =>
    ⟨_, List.getElem?_eq_getElem (by omega)⟩
  obtain ⟨ch, hch⟩ := written (7 + s.rx.len.toNat) (by omega)
  obtain ⟨cl, hcl⟩ := written (8 + s.rx.len.toNat) (by omega)
  obtain ⟨t, ht⟩ := written 6 (by omega)
  have hp : slice? 9 (7 + s.rx.len.toNat) s.rx.buf = some ((s.rx.buf.take (7 + s.rx.len.toNat)).drop 9) :=
    slice?_eq_some.2 ⟨by omega, rfl⟩
  simp only [complete, hch, hcl, ht, hp]
  split <;> simp

@[simp] theorem addSum_buf (s : State) (i : Nat) (b : Byte) : (s.addSum i b).rx.buf = s.rx.buf := by
  unfold State.addSum; split <;> rfl

@[simp] theorem addSum_cnt (s : State) (i : Nat) (b : Byte) : (s.addSum i b).rx.cnt = s.rx.cnt := by
  unfold State.addSum; split <;> rfl

@[simp] theorem addSum_len (s : State) (i : Nat) (b : Byte) : (s.addSum i b).rx.len = s.rx.len := by
  unfold State.addSum; split <;> rfl

/-- R36: by items 1, 4 and 5 of R35 the deframer reads only what was written, whatever the line answers. -/
theorem rxEvent_not_fault {e : LineEvent} {s : State} {r : Fault} (inv : RxInv s.par s.rx) :
    rxEvent e s ≠ .fault r := by
  have hcount := inv.count
  unfold rxEvent
  split
  · simp
  · simp
  · simp
  · unfold rxHunt
    split <;> simp
  · unfold rxHead
    split
    · rename_i b hs hnine
      apply headerCheck_not_fault
      simp only [State.append_rx, Config.hdr] at hnine
      simp; omega
    · simp
  · rename_i b hs
    obtain ⟨-, -, -, -, -, hlen, -⟩ := inv.body hs
    unfold rxBody
    split
    · rename_i hwhole
      simp only [addSum_cnt, State.append_rx, Config.hdr] at hwhole
      apply complete_not_fault
      · simpa using hlen
      · simp; omega
    · simp

/-- R36: an RX step from a state in which R35 holds does not fault. -/
theorem rxStep_not_fault {s : State} {r : Fault} (inv : FramerInv s) : rxStep s ≠ .fault r := by
  unfold rxStep
  split
  · simp
  all_goals exact rxEvent_not_fault (s := s.setLine s.line.read.2) inv.rx

/-- R36: a TX step from a state in which R35 holds does not fault. -/
theorem txStep_not_fault {s : State} {r : Fault} (inv : FramerInv s) : txStep s ≠ .fault r := by
  intro h
  obtain ⟨hs, hend⟩ := txStep_fault h
  obtain ⟨-, hidx, -⟩ := inv.tx.send hs
  omega

/-- The move of whoever is at work does not fault. -/
theorem workMove_not_fault {s : State} {r : Fault} (inv : FramerInv s) : workMove s ≠ .fault r := by
  unfold workMove
  split
  · exact txStep_not_fault inv
  · split
    · exact rxStep_not_fault inv
    · simp

/-- A move of the host reads neither buffer, so it never faults. -/
theorem hostMove_not_fault {s : State} {r : Fault} : hostMove s ≠ .fault r := by
  unfold hostMove
  split
  · unfold fetch
    split
    · simp
    · rename_i i rest _
      obtain ⟨s', hs', -⟩ := exec_next i (s.setHost { s.host with ops := rest })
      simp [hs']
  · simp
  · simp

/-- R35 speaks of the framer and the parameters only. -/
theorem framerInv_setHost {s : State} (inv : FramerInv s) (h : HostSide) : FramerInv (s.setHost h) :=
  ⟨inv.rx, inv.tx, inv.apart⟩

/-- R36: one step from a state in which R35 holds does not fault, whoever moves. -/
theorem step_not_fault {s : State} {r : Fault} (inv : FramerInv s) : step s ≠ .fault r := by
  unfold step oneStep turn
  split
  · split
    · exact workMove_not_fault inv
    · exact hostMove_not_fault
  · exact hostMove_not_fault
  · exact workMove_not_fault (framerInv_setHost inv _)
  · split
    · exact workMove_not_fault inv
    · exact hostMove_not_fault

/-- Settles O40, by induction on the number of steps: no step faults, and each keeps R35. -/
theorem noRunReadsAnUnwrittenByte : Obligations.NoRunReadsAnUnwrittenByte := by
  intro s inv n
  induction n generalizing s with
  | zero => simp [runSteps]
  | succ n ih =>
    intro r h
    rcases hstep : step s with s' | f | w
    · rw [runSteps_succ hstep] at h
      exact ih s' (stepKeepsInv s s' inv hstep) r h
    · exact step_not_fault inv hstep
    · simp [runSteps, hstep] at h

/-! ## What the outcome registers hold (R26, R30) -/

/-- R26: what RXRES holds. -/
structure RxLegal (o : RxRes) : Prop where
  reply : ∀ r, o = .reply r → 1 ≤ r.length ∧ r.length ≤ 65534
  err : ∀ k c, o = .err k c →
    (k = .badData ∨ k = .cantRead ∨ k = .notResponding) ∧ (c ≠ .none ↔ k = .badData)

/-- R30: what TXRES holds. -/
def TxLegal (u : TxRes) : Prop := ∀ k c, u = .err k c → k = .cantWrite ∧ c = .none

/-- R26 and R30 speak of one register each. -/
theorem outcomesLegal_iff {s : State} : OutcomesLegal s ↔ RxLegal s.rx.res ∧ TxLegal s.tx.res :=
  ⟨fun h => ⟨⟨h.reply, h.rxErr⟩, h.txErr⟩, fun ⟨hr, ht⟩ => ⟨hr.reply, hr.err, ht⟩⟩

theorem rxLegal_none : RxLegal .none := ⟨by simp, by simp⟩

theorem txLegal_none : TxLegal .none := by simp [TxLegal]

/-- R26: an RX step writes RXRES only where the `DECODE` ends, with a Reply that is no longer than `LEN` allows or with
a failure of the deframer. -/
theorem rxEffect_keeps_legal {par : Params} {r r' : Rx} (h : RxEffect par r r') (legal : RxLegal r.res) :
    RxLegal r'.res := by
  cases h with
  | discard hs he => subst he; exact legal
  | sync hs he => subst he; exact legal
  | head b hs hc he => subst he; exact legal
  | accept b t h l hs hc h0 h1 h6 h7 h8 hlo hhi he => subst he; exact legal
  | body b hs hc he => subst he; exact legal
  | reply t p hs hp hl he =>
    subst he
    have hlen := r.len.isLt
    refine ⟨?_, by simp⟩
    intro q hq
    cases hq
    simp only [List.length_cons]; omega
  | failed k c hk he =>
    subst he
    refine ⟨by simp, ?_⟩
    intro k' c' hq
    cases hq
    obtain ⟨rfl, hc⟩ | ⟨rfl | rfl, rfl⟩ := hk
    · simp [hc]
    · simp
    · simp

/-- R30: a TX step writes TXRES only where the `ENCODE` ends. -/
theorem TxHalfEffect.keeps_legal {t t' : Tx} (h : TxHalfEffect t t') (legal : TxLegal t.res) : TxLegal t'.res := by
  cases h with
  | sent hs hi he => subst he; exact legal
  | failed he => subst he; intro k c hq; cases hq; exact ⟨rfl, rfl⟩
  | flushed he => subst he; intro k c hq; cases hq

/-- A host's move leaves an outcome register as it is or clears it. -/
theorem framerEffect_keeps_legal {s s' : State} (h : FramerEffect s s') (hr : RxLegal s.rx.res)
    (ht : TxLegal s.tx.res) : RxLegal s'.rx.res ∧ TxLegal s'.tx.res := by
  cases h with
  | same er et => rw [er, et]; exact ⟨hr, ht⟩
  | load hb er t p hp et => rw [er, et]; exact ⟨hr, txLegal_none⟩
  | hunt hb et er => rw [er, et]; exact ⟨rxLegal_none, ht⟩
  | reset er et => rw [er, et]; exact ⟨rxLegal_none, txLegal_none⟩

/-- Settles O41: each half keeps what R26 and R30 say of its register, and the host only clears them. -/
theorem stepKeepsOutcomesLegal : Obligations.StepKeepsOutcomesLegal := by
  intro s s' legal h
  obtain ⟨hr, ht⟩ := outcomesLegal_iff.1 legal
  rw [outcomesLegal_iff]
  obtain ⟨-, heffect⟩ := step_halves h
  cases heffect with
  | host heffect => exact framerEffect_keeps_legal heffect hr ht
  | tx hb er et => rw [er]; exact ⟨hr, et.keeps_legal ht⟩
  | rx hb er et => rw [et]; exact ⟨rxEffect_keeps_legal er hr, ht⟩

/-! ## What R35 says of the counts and of a block that is not BUSY -/

/-- R23, R35: RXCNT stays below the end of the longest frame that MAXLEN lets in. -/
theorem rxInv_cnt_le {par : Params} {r : Rx} (inv : RxInv par r) : r.cnt ≤ 8 + par.maxLen.toNat := by
  have hcount := inv.count
  rcases hs : r.state
  case idle =>
    obtain ⟨hbuf, -⟩ := inv.idle hs
    simp [hcount, hbuf]
  case hunt =>
    obtain ⟨hbuf, -⟩ := inv.hunt hs
    simp [hcount, hbuf]
  case head =>
    obtain ⟨-, hhi, -⟩ := inv.head hs
    omega
  case body =>
    obtain ⟨-, hhi, -, -, -, -, hmax, -⟩ := inv.body hs
    omega

/-- R28: a frame is at most 65544 bytes. -/
theorem isFrame_length_le {b : List Byte} (h : IsFrame b) : b.length ≤ 65544 := by
  obtain ⟨t, p, hp, rfl⟩ := h
  rw [frame_length]; omega

/-- R28, R29, R35: TXIDX is at most the length of TXBUF, which holds at most one frame. -/
theorem txInv_idx_le {t : Tx} (inv : TxInv t) : t.idx ≤ t.buf.length ∧ t.buf.length ≤ 65544 := by
  rcases hs : t.state
  case idle =>
    obtain ⟨hbuf, hidx⟩ := inv.idle hs
    simp [hbuf, hidx]
  case send =>
    obtain ⟨hframe, hidx, -⟩ := inv.send hs
    exact ⟨hidx.le, isFrame_length_le hframe⟩
  case flush =>
    obtain ⟨hframe, hidx, -⟩ := inv.flush hs
    exact ⟨hidx.le, isFrame_length_le hframe⟩

/-- Settles O42: the bound of each half, with MAXLEN a 16-bit value. -/
theorem countsFitSeventeenBits : Obligations.CountsFitSeventeenBits := by
  intro s inv
  have hcnt := rxInv_cnt_le inv.rx
  have hcount := inv.rx.count
  have hmax := s.par.maxLen.isLt
  obtain ⟨hidx, hbuf⟩ := txInv_idx_le inv.tx
  omega

/-- R35 item 2: an RX half in IDLE has its reset values but for RXRES. -/
theorem rxInv_eq_idleWith {par : Params} {r : Rx} (inv : RxInv par r) (h : r.state = .idle) :
    r = Rx.idleWith r.res := by
  obtain ⟨hbuf, hlen, hsum⟩ := inv.idle h
  have hcount := inv.count
  rcases r with ⟨_, _, _, _, _, _⟩
  simp_all [Rx.idleWith]

/-- R35 item 6: a TX half in IDLE has its reset values but for TXRES. -/
theorem txInv_eq_idleWith {t : Tx} (inv : TxInv t) (h : t.state = .idle) : t = Tx.idleWith t.res := by
  obtain ⟨hbuf, hidx⟩ := inv.idle h
  rcases t with ⟨_, _, _, _⟩
  simp_all [Tx.idleWith]

/-- Settles O43: R35 holds after the step too, and where it holds a half in IDLE is reset but for its outcome. -/
theorem endedOperationLeavesResetState : Obligations.EndedOperationLeavesResetState := by
  intro s s' inv _ h hended
  have inv' := stepKeepsInv s s' inv h
  obtain ⟨hrx, htx⟩ := s'.busy_eq_false_iff.1 hended
  exact ⟨rxInv_eq_idleWith inv'.rx hrx, txInv_eq_idleWith inv'.tx htx⟩

/-! ## Power-on (R37) -/

/-- Settles O1: `State.reset` is written with these values. -/
theorem powerOnValues : Obligations.PowerOnValues := ⟨rfl, rfl, rfl, rfl⟩

/-- Settles O39: at reset both halves are IDLE with no outcome. -/
theorem resetSatisfiesInv : Obligations.ResetSatisfiesInv :=
  ⟨⟨rxInv_idleWith _ _, txInv_idleWith _, fun ⟨hrx, _⟩ => hrx rfl⟩,
    outcomesLegal_iff.2 ⟨rxLegal_none, txLegal_none⟩⟩

/-- R37: a host with nothing to issue and no call to begin makes no move. -/
theorem hostMove_of_nothing {s : State} (hops : s.host.ops = []) (hcalls : s.host.calls = []) :
    hostMove s = .next s := by
  simp only [hostMove, hops, hcalls]

/-- Settles O50: it is the host's turn, and the host has nothing to do. -/
theorem idleBlockDoesNothing : Obligations.IdleBlockDoesNothing := by
  intro s hops hcalls hdelays htask hrx htx
  exact (step_host hdelays hrx htx htask).trans (hostMove_of_nothing hops hcalls)

end Sys2Proof.Proofs


/-! # The frame (R58, R80 to R87), and what each move does to the transport (R50, R55, R56, R59, R64) -/

namespace Sys2Proof.Proofs

open Sys2Proof.Machine

/-! ## The layout of the frame (R58, R80 to R87) -/

/-- R8: the sum of a byte sequence is the sum of its values. -/
theorem byteSum_eq_sum (bs : List Byte) : byteSum bs = (bs.map BitVec.toNat).sum := by
  induction bs with
  | nil => rfl
  | cons b bs ih => simp [ih]

/-- R80, R85, R86: behind the nine header bytes stand the payload and the checksum field. -/
theorem frame_drop_header (t : Byte) (p : List Byte) :
    (frame t p).drop 9 = p ++ [hi8 (chk t p), lo8 (chk t p)] := by
  rw [frame_eq]; rfl

/-- R87: behind the payload stands the checksum field. -/
theorem frame_drop_payload (t : Byte) (p : List Byte) :
    (frame t p).drop (9 + p.length) = [hi8 (chk t p), lo8 (chk t p)] := by
  rw [← List.drop_drop, frame_drop_header, List.drop_left]

/-- R8: a 16-bit value is read back from its two bytes. -/
theorem hi8_lo8_toNat (v : Word16) : 256 * (hi8 v).toNat + (lo8 v).toNat = v.toNat := by
  rw [hi8_toNat, lo8_toNat, Nat.div_add_mod]

/-- Settles O14: the header is written out by `frame_eq`, and each field is read back from its two bytes. -/
theorem frameLayout : Obligations.FrameLayout := by
  intro t p hp
  have hlen := lenField_toNat hp
  refine ⟨frame_length t p, by rw [frame_eq]; rfl, ?_, ?_, ?_⟩
  · refine ⟨hi8 (lenField p), lo8 (lenField p), by rw [frame_eq]; rfl, by rw [frame_eq]; rfl, ?_⟩
    rw [hi8_lo8_toNat, hlen]
  · rw [frame_drop_header, List.take_left]
  · refine ⟨_, _, frame_drop_payload t p, ?_⟩
    rw [hi8_lo8_toNat, chk_toNat, hlen, byteSum_eq_sum]

/-! ## What a write and a flush do (R56) -/

/-- R56: a transport call has one answer, and giving it touches no byte. -/
theorem answer_eq (l : Line) : ∃ a as n, l.answer = (a, { l with answers := as, tick := n }) := by
  obtain ⟨as, n, hline⟩ := l.answer_spec
  exact ⟨l.answer.1, as, n, Prod.ext rfl hline⟩

/-- R56: everything a write to the oracle can do: the byte joins the send buffer, of which a part may run ahead; or the
transport answers `Error`, and of the bytes not yet flushed, the failing one among them, the rest is lost. -/
theorem write_oracle_cases {l : Line} (b : Byte) (hk : l.kind = .oracle) :
    ∃ as n,
      (∃ k, l.write b =
        (true, { l with answers := as, tick := n, sendBuf := l.sendBuf ++ [b] }.runAhead k)) ∨
      l.write b = (false, { l with answers := as, tick := n }.lose (l.sendBuf ++ [b])) := by
  obtain ⟨_ | _, as, n, hans⟩ := answer_eq l <;> simp only [Line.write, hans, hk]
  · exact ⟨as, n, .inr rfl⟩
  · exact ⟨as, n + 1, .inl ⟨_, rfl⟩⟩

/-- R56: everything a flush can do: the send buffer goes out, or the transport answers `Error` and the rest is lost. -/
theorem flush_cases (l : Line) :
    ∃ as n,
      l.flush =
        (true,
          { l with
            answers := as, tick := n, lineOut := l.lineOut ++ l.sendBuf.drop l.early, sendBuf := [], early := 0 }) ∨
      l.flush = (false, { l with answers := as, tick := n }.lose l.sendBuf) := by
  obtain ⟨_ | _, as, n, hans⟩ := answer_eq l <;> simp only [Line.flush, hans]
  · exact ⟨as, n, .inr rfl⟩
  · exact ⟨as, n, .inl rfl⟩

/-- R56, R125: after an `Error` nothing waits any more, and some prefix of what waited is on the line. -/
theorem lose_effect (l : Line) (pending : List Byte) :
    (l.lose pending).sendBuf = [] ∧ (l.lose pending).early = 0 ∧ (l.lose pending).lineIn = l.lineIn ∧
      ∃ k, (l.lose pending).lineOut = l.lineOut ++ (pending.take k).drop l.early :=
  ⟨rfl, rfl, rfl, _, rfl⟩

/-- Settles O25: the answer picks the case of the write or the flush. -/
theorem writeAndFlushEffects : Obligations.WriteAndFlushEffects := by
  intro l l' b hk
  obtain ⟨as, n, hwrite⟩ := write_oracle_cases b hk
  obtain ⟨as', n', hflush⟩ := flush_cases l
  refine ⟨fun h => ?_, fun h => ?_, fun h => ?_, fun h => ?_⟩
  · obtain ⟨k, hw⟩ | hw := hwrite <;> rw [hw] at h <;> cases h
    exact ⟨rfl, rfl, ⟨k, rfl⟩, Line.runAhead_bound _ k⟩
  · obtain ⟨k, hw⟩ | hw := hwrite <;> rw [hw] at h <;> cases h
    exact lose_effect _ _
  · obtain hf | hf := hflush <;> rw [hf] at h <;> cases h
    exact ⟨rfl, rfl, rfl, rfl⟩
  · obtain hf | hf := hflush <;> rw [hf] at h <;> cases h
    exact lose_effect _ _

/-! ## What one step does to the transport -/

/-- Neither a write nor a flush reads, and what is on the line stays there. -/
theorem writeOrFlush_keeps {l l' : Line} (h : l' = l.flush.2 ∨ ∃ b, l' = (l.write b).2) :
    l'.lineIn = l.lineIn ∧ ∃ bs, l'.lineOut = l.lineOut ++ bs := by
  obtain rfl | ⟨b, rfl⟩ := h
  · obtain ⟨as, n, bs, hl⟩ := l.flush_spec
    rw [hl]; exact ⟨rfl, bs, rfl⟩
  · obtain ⟨as, n, sb, e, bs, hl⟩ := l.write_spec b
    rw [hl]; exact ⟨rfl, bs, rfl⟩

/-- What the transport holds of the bytes written is the same in both. -/
structure SameOutput (l l' : Line) : Prop where
  lineOut : l'.lineOut = l.lineOut
  sendBuf : l'.sendBuf = l.sendBuf
  early : l'.early = l.early

/-- R50: where the output is the same, nothing is taken back from the line. -/
theorem SameOutput.appends {l l' : Line} (h : SameOutput l l') : ∃ bs, l'.lineOut = l.lineOut ++ bs :=
  ⟨[], by simp [h.lineOut]⟩

/-- R55: a read touches nothing that was written. -/
theorem sameOutput_read (l : Line) : SameOutput l l.read.2 := by
  obtain ⟨k, n, hl, -⟩ := l.read_spec
  rw [hl]; exact ⟨rfl, rfl, rfl⟩

/-- R123 to R125: a TX step is one write or flush, and leaves the host alone. -/
theorem txEffect_line {s s' : State} (h : TxEffect s s') :
    s'.host = s.host ∧ s'.line.lineIn = s.line.lineIn ∧ ∃ bs, s'.line.lineOut = s.line.lineOut ++ bs := by
  cases h with
  | sent b hs hb he => subst he; exact ⟨rfl, writeOrFlush_keeps (.inr ⟨b, rfl⟩)⟩
  | failed l hl he => subst he; exact ⟨rfl, writeOrFlush_keeps hl⟩
  | flushed hs he => subst he; exact ⟨rfl, writeOrFlush_keeps (.inl rfl)⟩

/-- What one step does to the queue and to the bytes written: bytes may arrive at a move of the host (R64); a TX step
writes or flushes (R123, R124); an RX step reads (R141). -/
inductive LineEffect (s s' : State) : Prop where
  | host (bs : List Byte) (hin : s'.line.lineIn = s.line.lineIn ++ bs.map LineEvent.byte)
      (hout : SameOutput s.line s'.line)
  | tx (hb : s.tx.state ≠ .idle) (hin : s'.line.lineIn = s.line.lineIn) (bs : List Byte)
      (hout : s'.line.lineOut = s.line.lineOut ++ bs)
  | rx (hb : s.rx.state ≠ .idle) (k : Nat) (hin : s'.line.lineIn = s.line.lineIn.drop k)
      (hk : k ≤ 1 ∨ s'.rx.res = .err .cantRead .none) (hout : SameOutput s.line s'.line)

/-- The inversion of a step that the statements about the transport start from. -/
theorem step_line {s s' : State} (h : step s = .next s') : LineEffect s s' := by
  obtain hhost | ⟨ds, hb, htx, -⟩ | ⟨ds, -, hb, -, he, -, herr⟩ := step_cases h
  · obtain ⟨bs, hin⟩ := hhost.lineIn
    exact .host bs hin ⟨hhost.lineOut, hhost.sendBuf, hhost.early⟩
  · obtain ⟨-, hin, bs, hout⟩ := txEffect_line htx
    exact .tx hb hin bs hout
  · obtain ⟨k, n, hread, hk⟩ := s.line.read_spec
    have hline : s'.line = s.line.read.2 := by rw [he]; rfl
    refine .rx hb k (by rw [hline, hread]) (hk.imp_right fun herror => ?_) (hline ▸ sameOutput_read s.line)
    rw [herr herror]; rfl

/-- Settles O45: only an RX step reads, and it reads once. -/
theorem onlyReadsTakeFromTheQueue : Obligations.OnlyReadsTakeFromTheQueue := by
  intro s s' h
  cases step_line h with
  | host bs hin hout => exact ⟨fun _ => ⟨bs, hin⟩, fun _ => ⟨0, bs, hin, .inl (Nat.zero_le 1)⟩⟩
  | tx hb hin bs hout =>
    exact ⟨fun _ => ⟨[], by simp [hin]⟩, fun _ => ⟨0, [], by simp [hin], .inl (Nat.zero_le 1)⟩⟩
  | rx hb k hin hk hout => exact ⟨fun hidle => absurd hidle hb, fun _ => ⟨k, [], by simp [hin], hk⟩⟩

/-- Settles O46: only a TX step writes or flushes, and it takes nothing back. -/
theorem onlyTxWritesTheLine : Obligations.OnlyTxWritesTheLine := by
  intro s s' h
  cases step_line h with
  | host bs hin hout => exact ⟨hout.appends, fun _ => ⟨hout.lineOut, hout.sendBuf, hout.early⟩⟩
  | tx hb hin bs hout => exact ⟨⟨bs, hout⟩, fun hidle => absurd hidle hb⟩
  | rx hb k hin hk hout => exact ⟨hout.appends, fun _ => ⟨hout.lineOut, hout.sendBuf, hout.early⟩⟩

/-- Settles O47: without delays the step is the TX step, or the RX step, and each is framed by its own lemma. -/
theorem eachHalfLeavesTheOtherAlone : Obligations.EachHalfLeavesTheOtherAlone := by
  intro s s' hdelays h
  constructor
  · intro htx
    rw [step_tx hdelays htx] at h
    have heffect := txStep_cases htx h
    obtain ⟨-, hrx, -⟩ := txEffect_halves heffect
    obtain ⟨hhost, hin, -⟩ := txEffect_line heffect
    exact ⟨hrx, hin, hhost⟩
  · intro htx hrx
    rw [step_rx hdelays htx hrx] at h
    obtain ⟨-, he⟩ := rxEvent_cases (s := s.setLine s.line.read.2) hrx h
    obtain ⟨hout, hbuf, hearly⟩ := sameOutput_read s.line
    rw [he]
    exact ⟨rfl, hout, hbuf, hearly, rfl⟩

/-! ## Frames that arrive (R90, R64) -/

/-- R90: what a frame kind does is given by its tag and its form alone. -/
theorem exec_frameKind (s : State) {t u : Byte} {f : FrameForm} {i : Instr}
    (h : (i, u) ∈
      [(Instr.frameCmd f, (0x01 : Byte)), (Instr.frameData f, 0x02), (Instr.frameAck f, 0x07),
       (Instr.frameEnd f, 0x08), (Instr.frameOther t f, t)]) :
    exec i s = .next (s.handleFrame u f) := by
  simp only [List.mem_cons, Prod.mk.injEq, List.not_mem_nil, or_false] at h
  obtain ⟨rfl, rfl⟩ | ⟨rfl, rfl⟩ | ⟨rfl, rfl⟩ | ⟨rfl, rfl⟩ | ⟨rfl, rfl⟩ := h <;> rfl

/-- R50, R64: a frame that arrives touches the receive queue only. -/
theorem handleFrame_recv (s : State) (u : Byte) (a : Addr) (len : Word16) (body : List Byte) :
    s.handleFrame u (.recv a len body) =
      { s with line := { s.line with lineIn := s.line.lineIn ++ (image u a len body).map LineEvent.byte } } := rfl

/-- Settles O8: every kind delivers the image of its frame. -/
theorem frameKindsArrive : Obligations.FrameKindsArrive := by
  intro s t a len body i u h
  rw [exec_frameKind s h, handleFrame_recv]
  rfl

end Sys2Proof.Proofs

/-! # The frames that `DecodeRun` accepts (R92, R93, R157), and what a frame determines (R101) -/

namespace Sys2Proof.Proofs

open Sys2Proof.Machine

/-- R92: the checksum field `c` of the frame of `t` and `p` passes. -/
def ChkPasses (par : Params) (t : Byte) (p : List Byte) (c : Word16) : Prop :=
  par.chkVerify = false ∨ c = chk t p

/-- R149, R150: the end of a body whose last two bytes are `ch` and `cl`. -/
theorem bodyEnd_append (par : Params) (t : Byte) (p : List Byte) (ch cl : Byte) :
    bodyEnd par t (hi8 (lenField p)) (lo8 (lenField p)) (p ++ [ch, cl]) =
      if par.chkVerify = true ∧ be16 ch cl ≠ chk t p then .err .badData .checksum else .reply (t :: p) := by
  have hchk :
      BitVec.ofNat 16 (t.toNat + (hi8 (lenField p)).toNat + (lo8 (lenField p)).toNat + byteSum p) = chk t p := by
    unfold chk; congr 1; omega
  simp [bodyEnd, ← hchk]

/-- R92, R150: the body ends with a Reply exactly when its checksum field passes. -/
theorem bodyEnd_eq_reply_iff {par : Params} {t : Byte} {p r : List Byte} {ch cl : Byte} :
    bodyEnd par t (hi8 (lenField p)) (lo8 (lenField p)) (p ++ [ch, cl]) = .reply r ↔
      ChkPasses par t p (be16 ch cl) ∧ r = t :: p := by
  have hpasses : ChkPasses par t p (be16 ch cl) ↔ ¬(par.chkVerify = true ∧ be16 ch cl ≠ chk t p) := by
    simp [ChkPasses, imp_iff_not_or]
  rw [bodyEnd_append]
  by_cases hchk : ChkPasses par t p (be16 ch cl)
  · rw [if_neg (hpasses.1 hchk)]; simp [hchk, eq_comm]
  · rw [if_pos (not_not.1 (mt hpasses.2 hchk))]; simp [hchk]

/-- R152, R153: a loop that fails gives no Reply. -/
theorem fails_ne_reply {es rest : List LineEvent} {bs : List Byte} {o : RxRes} (h : Fails es bs o rest)
    (r : List Byte) : o ≠ .reply r := by
  cases h <;> exact RxRes.noConfusion

/-- R145 to R151: a header behind which the body stands whole and passes ends with its Reply. -/
theorem headEnd_of_passes {par : Params} {t : Byte} {p : List Byte} {c : Word16} (a : Addr)
    (later : List LineEvent) (hlen : p.length + 2 ≤ par.maxLen.toNat) (hchk : ChkPasses par t p c) :
    headEnd par [Config.markerLo, a.a0, a.a1, a.a2, a.a3, t, hi8 (lenField p), lo8 (lenField p)]
      ((p ++ [hi8 c, lo8 c]).map LineEvent.byte ++ later) = (.reply (t :: p), later) := by
  have hmax := par.maxLen.isLt
  have hfield : (lenField p).toNat = p.length + 2 := lenField_toNat (by omega)
  have hcollect := collect_bytes (p ++ [hi8 c, lo8 c]) later
  rw [List.length_append, List.length_cons, List.length_singleton] at hcollect
  have hbody := bodyEnd_eq_reply_iff.2 ⟨(be16_hi8_lo8 c).symm ▸ hchk, rfl⟩
  simp only [headEnd, be16_hi8_lo8, hfield, hcollect, hbody]
  rw [if_neg (by simp), if_neg (by omega)]

/-- R145 to R151 read backwards: what a header and the events behind it are where they end with a Reply. -/
theorem headEnd_eq_reply {par : Params} {head r : List Byte} {es later : List LineEvent}
    (h : headEnd par head es = (.reply r, later)) :
    ∃ (a : Addr) (t : Byte) (p : List Byte) (c : Word16),
      head = [Config.markerLo, a.a0, a.a1, a.a2, a.a3, t, hi8 (lenField p), lo8 (lenField p)] ∧
      es = (p ++ [hi8 c, lo8 c]).map LineEvent.byte ++ later ∧
      p.length + 2 ≤ par.maxLen.toNat ∧ ChkPasses par t p c ∧ r = t :: p := by
  unfold headEnd at h
  split at h
  case h_2 => cases h
  case h_1 n a0 a1 a2 a3 t hi lo =>
  by_cases hmarker : n ≠ Config.markerLo
  · rw [if_pos hmarker] at h; cases h
  by_cases hrange : (be16 hi lo).toNat < 2 ∨ par.maxLen.toNat < (be16 hi lo).toNat
  · rw [if_neg hmarker, if_pos hrange] at h; cases h
  rw [if_neg hmarker, if_neg hrange] at h
  obtain ⟨tail, ⟨es', hok, htail, hes⟩ | ⟨o, rest, herr, -, hfails⟩⟩ := collect_cases (be16 hi lo).toNat es
  · obtain ⟨p, ch, cl, rfl⟩ := exists_last_two tail (by omega)
    have hp : p.length + 2 = (be16 hi lo).toNat := by simpa using htail
    have hlen : p.length + 2 ≤ par.maxLen.toNat := by omega
    have hfield : lenField p = be16 hi lo := BitVec.eq_of_toNat_eq (by
      rw [lenField_toNat (by have := (be16 hi lo).isLt; omega), hp])
    have hhi : hi = hi8 (lenField p) := by rw [hfield, hi8_be16]
    have hlo : lo = lo8 (lenField p) := by rw [hfield, lo8_be16]
    rw [hok] at h
    obtain ⟨hbody, rfl⟩ := Prod.mk.inj h
    rw [hhi, hlo] at hbody
    obtain ⟨hchk, rfl⟩ := bodyEnd_eq_reply_iff.1 hbody
    refine ⟨⟨a0, a1, a2, a3⟩, t, p, be16 ch cl, ?_, ?_, hlen, hchk, rfl⟩
    · rw [not_not.1 hmarker, hhi, hlo]
    · rw [hi8_be16, lo8_be16, hes]
  · rw [herr] at h
    exact absurd (Prod.mk.inj h).1 (fails_ne_reply hfails r)

/-- R157: what `DecodeRun` accepts: discarded bytes, then a frame that passes R92, whatever its address. -/
theorem decodeRun_eq_reply_iff {par : Params} {es later : List LineEvent} {r : List Byte} :
    decodeRun par es = (.reply r, later) ↔
      ∃ g a t p c, (∀ b ∈ g, b ≠ 0xEF) ∧
        es = (g ++ image t a (lenField p) (p ++ [hi8 c, lo8 c])).map LineEvent.byte ++ later ∧
        p.length + 2 ≤ par.maxLen.toNat ∧ ChkPasses par t p c ∧ r = t :: p := by
  constructor
  · intro h
    unfold decodeRun at h
    obtain ⟨g, hg, ⟨es', hhunt, rfl⟩ | ⟨o, rest, hhunt, hfails⟩⟩ := huntRun_cases es <;> rw [hhunt] at h
    case inr => exact absurd (Prod.mk.inj h).1 (fails_ne_reply hfails r)
    obtain ⟨head, ⟨es'', hhead, -, rfl⟩ | ⟨o, rest, hhead, -, hfails⟩⟩ := collect_cases 8 es' <;>
      simp only [hhead] at h
    case inr => exact absurd (Prod.mk.inj h).1 (fails_ne_reply hfails r)
    obtain ⟨a, t, p, c, rfl, rfl, hlen, hchk, rfl⟩ := headEnd_eq_reply h
    exact ⟨g, a, t, p, c, hg, by simp [image, Config.markerHi], hlen, hchk, rfl⟩
  · rintro ⟨g, a, t, p, c, hg, rfl, hlen, hchk, rfl⟩
    rw [List.map_append, List.append_assoc, decodeRun, huntRun_discards g hg]
    exact headEnd_of_passes a later hlen hchk

/-- Settles O34: among what `DecodeRun` accepts the address is free. -/
theorem anyAddressIsAccepted : Obligations.AnyAddressIsAccepted :=
  fun _ a t p c _ hlen hchk => decodeRun_eq_reply_iff.2 ⟨[], a, t, p, c, by simp, rfl, hlen, hchk, rfl⟩

/-- R101: the type and the payload are read off the frame. -/
theorem frame_injective {t u : Byte} {p q : List Byte} (h : frame t p = frame u q) : t = u ∧ p = q := by
  have hlen : p.length = q.length := by simpa using congrArg List.length h
  have htype : t = u := Option.some.inj (congrArg (·[6]?) h)
  have hbehind := congrArg (List.drop 9) h
  rw [frame_drop_header, frame_drop_header] at hbehind
  exact ⟨htype, (List.append_inj hbehind hlen).1⟩

/-- R101, R121: with the TX framer's address and the right checksum, a frame's image is the frame TX builds. -/
theorem image_eq_frame (t : Byte) (p : List Byte) :
    image t ⟨0xFF, 0xFF, 0xFF, 0xFF⟩ (lenField p) (p ++ [hi8 (chk t p), lo8 (chk t p)]) = frame t p := rfl

/-- Settles O18: what is accepted is the image of a frame, its address is given, and its checksum is compared. -/
theorem frameDeterminesTypeAndPayload : Obligations.FrameDeterminesTypeAndPayload := by
  refine ⟨fun t u p q _ _ => frame_injective, ?_⟩
  intro par f r hverify hmarker haddr h
  obtain ⟨g, a, t, p, c, hg, hf, hlen, hchk, rfl⟩ := decodeRun_eq_reply_iff.1 h
  have hmax := par.maxLen.isLt
  have hc : c = chk t p := hchk.resolve_left (by simp [hverify])
  rw [List.append_nil] at hf
  obtain rfl : f = _ := List.map_injective_iff.2 (fun _ _ => LineEvent.byte.inj) hf
  obtain rfl : g = [] := by
    cases g with
    | nil => rfl
    | cons b g => exact absurd (List.cons.inj hmarker).1 (hg b List.mem_cons_self)
  obtain ⟨a0, a1, a2, a3⟩ := a
  obtain ⟨rfl, rfl, rfl, rfl⟩ : a0 = 0xFF ∧ a1 = 0xFF ∧ a2 = 0xFF ∧ a3 = 0xFF := by simpa [image] using haddr
  exact ⟨t, p, rfl, by omega, hc ▸ image_eq_frame t p⟩

end Sys2Proof.Proofs

/-! # Words and instructions (R80, R90, R96, R97, R99, R100): decode and encode undo each other -/

namespace Sys2Proof.Proofs

open Sys2Proof.Machine Sys2Proof.Decode Sys2Proof.Encode

/-! ## The rows of R96 and R97 by opcode and by status -/

/-- R96: an opcode row's word. -/
theorem encode_opcodeInstr (o : Opcode) (f : FrameForm) : encode (opcodeInstr o f) = opcodeForm o f := by
  cases o <;> rfl

/-- R97: a status row's word. -/
theorem encode_statusInstr (c : Status) (f : FrameForm) : encode (statusInstr c f) = statusForm c f := by
  cases c <;> rfl

/-- R10, R94: the check of an opcode row. -/
theorem wellFormed_opcodeInstr (o : Opcode) (f : FrameForm) :
    (opcodeInstr o f).wellFormed = f.sizedAfter (opcodeByte o) := by
  cases o <;> rfl

/-- R10, R94: the check of a status row. -/
theorem wellFormed_statusInstr (c : Status) (f : FrameForm) :
    (statusInstr c f).wellFormed = f.sizedAfter (statusByte c) := by
  cases c <;> rfl

/-! ## The first payload byte of a form (R85, R88) -/

/-- A form whose check after `b` passes is sized with `b` in front, and then `b` is its first payload byte. -/
theorem sized_cons_of_sizedAfter {b : Byte} {f : FrameForm} (h : f.sizedAfter b = true) :
    (f.cons b).sized = true ∧ (f.cons b).firstPayload = some b := by
  obtain ⟨hsized, hroom⟩ := Bool.and_eq_true_iff.1 h
  refine ⟨hsized, ?_⟩
  cases f with
  | send p => rfl
  | recv a len body => exact if_pos (of_decide_eq_true hroom)

/-- A form with a first payload byte is that byte in front of the rest. -/
theorem cons_dropFirst {b : Byte} {f : FrameForm} (h : f.firstPayload = some b) : (dropFirst f).cons b = f := by
  cases f with
  | send p =>
    obtain ⟨q, rfl⟩ := List.head?_eq_some_iff.1 h
    rfl
  | recv a len body =>
    simp only [FrameForm.firstPayload, Option.ite_none_right_eq_some, List.head?_eq_some_iff] at h
    obtain ⟨-, q, rfl⟩ := h
    rfl

/-- A byte in front of a form is dropped again. -/
theorem dropFirst_cons (b : Byte) (f : FrameForm) : dropFirst (f.cons b) = f := by
  cases f <;> rfl

/-- A sized form with first payload byte `b` passes the check after `b` without it. -/
theorem sizedAfter_dropFirst {b : Byte} {f : FrameForm} (hsized : f.sized = true) (h : f.firstPayload = some b) :
    (dropFirst f).sizedAfter b = true := by
  unfold FrameForm.sizedAfter
  rw [cons_dropFirst h, hsized]
  cases f with
  | send p => rfl
  | recv a len body =>
    simp only [FrameForm.firstPayload, Option.ite_none_right_eq_some] at h
    simpa [dropFirst] using h.1

/-! ## The most specific row (log entry 10) -/

/-- `i` is a row for the frame of type `t` and form `f` (R58, R121): it has the frame for its word, and it is
well-formed where the form's bytes fit its length field (R10, R94). -/
structure RowOf (t : Byte) (f : FrameForm) (i : Instr) : Prop where
  word : encode i = frameForm t f
  wellFormed : f.sized = true → i.wellFormed = true

/-- R96: a command frame that begins with a listed opcode. -/
theorem rowOf_opcodeInstr {f : FrameForm} {o : Opcode} (h : f.firstPayload.bind opcodeOf = some o) :
    RowOf Config.tCmd f (opcodeInstr o (dropFirst f)) := by
  obtain ⟨b, hb, hbo⟩ := Option.bind_eq_some_iff.1 h
  obtain rfl := opcodeByte_of_opcodeOf hbo
  exact ⟨by rw [encode_opcodeInstr, opcodeForm, cons_dropFirst hb],
    fun hsized => (wellFormed_opcodeInstr o _).trans (sizedAfter_dropFirst hsized hb)⟩

/-- R97: an acknowledgement that begins with a listed status. -/
theorem rowOf_statusInstr {f : FrameForm} {c : Status} (h : f.firstPayload.bind statusOf = some c) :
    RowOf Config.tAck f (statusInstr c (dropFirst f)) := by
  obtain ⟨b, hb, hbc⟩ := Option.bind_eq_some_iff.1 h
  obtain rfl := statusByte_of_statusOf hbc
  exact ⟨by rw [encode_statusInstr, statusForm, cons_dropFirst hb],
    fun hsized => (wellFormed_statusInstr c _).trans (sizedAfter_dropFirst hsized hb)⟩

/-- R90, R96, R97: the most specific row of a frame is a row for it. -/
theorem rowOf_frameInstr (t : Byte) (f : FrameForm) : RowOf t f (frameInstr t f) := by
  unfold frameInstr
  split
  case isTrue ht =>
    subst ht
    split
    case h_1 o ho => exact rowOf_opcodeInstr ho
    case h_2 hnone => exact ⟨rfl, fun hsized => by simp [Instr.wellFormed, hsized, hnone]⟩
  case isFalse hcmd =>
  split
  case isTrue ht =>
    subst ht
    split
    case h_1 c hc => exact rowOf_statusInstr hc
    case h_2 hnone => exact ⟨rfl, fun hsized => by simp [Instr.wellFormed, hsized, hnone]⟩
  case isFalse hack =>
  split
  case isTrue ht => subst ht; exact ⟨rfl, id⟩
  case isFalse hdata =>
  split
  case isTrue ht => subst ht; exact ⟨rfl, id⟩
  case isFalse hend => exact ⟨rfl, fun hsized => by simp [Instr.wellFormed, hsized, hcmd, hack, hdata, hend]⟩

/-- R96: a well-formed opcode row is the most specific row of its frame. -/
theorem frameInstr_cons_opcodeByte {o : Opcode} {f : FrameForm} (h : f.sizedAfter (opcodeByte o) = true) :
    frameInstr Config.tCmd (f.cons (opcodeByte o)) = opcodeInstr o f := by
  simp [frameInstr, (sized_cons_of_sizedAfter h).2, dropFirst_cons]

/-- R97: a well-formed status row is the most specific row of its frame. -/
theorem frameInstr_cons_statusByte {c : Status} {f : FrameForm} (h : f.sizedAfter (statusByte c) = true) :
    frameInstr Config.tAck (f.cons (statusByte c)) = statusInstr c f := by
  rw [frameInstr, if_neg (by decide), if_pos rfl, (sized_cons_of_sizedAfter h).2]
  simp [dropFirst_cons]

/-! ## Frames are read back (R58, R92, R121) -/

/-- R58, R121: the word of a frame that fits its length field is read as the frame's most specific row. -/
theorem decode_frameForm (t : Byte) {f : FrameForm} (hsized : f.sized = true) (bs : List Byte) :
    decode (frameForm t f ++ bs) = .ok (frameInstr t f, bs) := by
  cases f with
  | send p => exact sent_frame t p (of_decide_eq_true hsized) bs
  | recv a len body => exact received_image t a len body (of_decide_eq_true hsized) bs

/-- R92, R94: what is read as a frame that arrives is its image. -/
theorem received_ok {w bs : List Byte} {i : Instr} (h : received w = .ok (i, bs)) :
    ∃ t f, f.sized = true ∧ i = frameInstr t f ∧ arrives :: w = frameForm t f ++ bs := by
  unfold received at h
  split at h
  case h_2 => cases h
  case h_1 m n a0 a1 a2 a3 t hi lo rest =>
  split at h
  case isTrue => cases h
  case isFalse hmarker =>
  split at h
  case isTrue => cases h
  case isFalse hwhole =>
  obtain ⟨rfl, rfl⟩ := Prod.mk.inj (Except.ok.inj h)
  obtain ⟨rfl, rfl⟩ : m = Config.markerHi ∧ n = Config.markerLo := by simpa using hmarker
  refine ⟨t, .recv ⟨a0, a1, a2, a3⟩ (be16 hi lo) (rest.take (bodyLength (be16 hi lo))), ?_, rfl, ?_⟩
  · simp only [FrameForm.sized, List.length_take, decide_eq_true_eq]; omega
  · simp [frameForm, image]

/-- R82, R84, R86: what is read as a frame handed to TX is the frame the TX framer builds. -/
theorem sent_ok {w bs : List Byte} {i : Instr} (h : sent w = .ok (i, bs)) :
    ∃ t f, f.sized = true ∧ i = frameInstr t f ∧ handedOver :: w = frameForm t f ++ bs := by
  unfold sent at h
  split at h
  case h_2 => cases h
  case h_1 m n a0 a1 a2 a3 t hi lo rest =>
  split at h
  case isTrue => cases h
  case isFalse hmarker =>
  split at h
  case isTrue => cases h
  case isFalse haddr =>
  split at h
  case isTrue => cases h
  case isFalse hbias =>
  split at h
  case h_2 => cases h
  case h_1 ch cl rest' hbehind =>
  split at h
  case isFalse => cases h
  case isTrue hchk =>
  obtain ⟨rfl, rfl⟩ := Prod.mk.inj (Except.ok.inj h)
  obtain ⟨rfl, rfl⟩ : m = Config.markerHi ∧ n = Config.markerLo := by simpa using hmarker
  obtain ⟨rfl, rfl, rfl, rfl⟩ := not_not.1 haddr
  generalize hp : rest.take ((be16 hi lo).toNat - Config.lenBias) = p at hchk ⊢
  have hrest : p ++ ch :: cl :: rest' = rest := by rw [← hp, ← hbehind, List.take_append_drop]
  have hlong := congrArg List.length hbehind
  have hbound := (be16 hi lo).isLt
  have hlen : p.length + 2 = (be16 hi lo).toNat := by
    simp only [List.length_drop, List.length_cons] at hlong
    simp only [← hp, List.length_take, Config.lenBias] at hbias hlong ⊢
    omega
  have hsize : p.length ≤ 65533 := by omega
  have hfield : lenField p = be16 hi lo := BitVec.eq_of_toNat_eq (by rw [lenField_toNat hsize, hlen])
  refine ⟨t, .send p, decide_eq_true hsize, rfl, ?_⟩
  simp [frameForm, frame, txHeader, hfield, ← hchk, ← hrest]

/-! ## The text of R99 and R100 is read back -/

/-- R100: no operand is missing where an operation with operands is read. -/
theorem operand_map_ok {α : Type} {r : Option α} {g : α → Instr × List Byte} {x : Instr × List Byte}
    (h : (operand r).map g = .ok x) : ∃ a, r = some a ∧ g a = x := by
  cases r with
  | none => cases h
  | some a => exact ⟨a, rfl, Except.ok.inj h⟩

/-- R99: an operation with a type and a payload, behind its name. -/
theorem typedOperation_ok {kw w rest bs : List Byte} {i : Instr} {g : Byte → List Byte → Instr}
    (hkw : strip kw w = some rest)
    (h : ((operand (typedLine rest)).map fun r => (g r.1 r.2.1, r.2.2)) = .ok (i, bs)) :
    ∃ t p, i = g t p ∧ w = kw ++ typedText t p ++ bs := by
  obtain ⟨⟨t, p, rest'⟩, hline, heq⟩ := operand_map_ok h
  obtain ⟨rfl, rfl⟩ := Prod.mk.inj heq
  exact ⟨t, p, rfl, by rw [strip_some hkw, typedLine_some hline, List.append_assoc]⟩

/-- R100: an operation with a payload, behind its name. -/
theorem payloadOperation_ok {kw w rest bs : List Byte} {i : Instr} {g : List Byte → Instr}
    (hkw : strip kw w = some rest)
    (h : ((operand (payloadLine rest)).map fun r => (g r.1, r.2)) = .ok (i, bs)) :
    ∃ p, i = g p ∧ w = kw ++ payloadText p ++ bs := by
  obtain ⟨⟨p, rest'⟩, hline, heq⟩ := operand_map_ok h
  obtain ⟨rfl, rfl⟩ := Prod.mk.inj heq
  exact ⟨p, rfl, by rw [strip_some hkw, payloadLine_some hline, List.append_assoc]⟩

/-- R98, R100, R194: `SET_SECURITY` and its level, behind its name. -/
theorem levelOperation_ok {kw w rest bs : List Byte} {i : Instr} {g : Byte → Instr}
    (hkw : strip kw w = some rest)
    (h : ((operand (levelLine rest)).map fun r => (g r.1, r.2)) = .ok (i, bs)) :
    ∃ n : Byte, (1 ≤ n.toNat ∧ n.toNat ≤ 5) ∧ i = g n ∧
      w = kw ++ [BitVec.ofNat 8 (48 + n.toNat), lineFeed] ++ bs := by
  obtain ⟨⟨n, rest'⟩, hline, heq⟩ := operand_map_ok h
  obtain ⟨rfl, rfl⟩ := Prod.mk.inj heq
  obtain ⟨hlevel, rfl⟩ := levelLine_some hline
  exact ⟨n, hlevel, rfl, by rw [strip_some hkw]; simp⟩

/-- R100: an operation without operands. -/
theorem bareOperation_ok {kw w rest bs : List Byte} {i j : Instr} (hkw : strip kw w = some rest)
    (h : Except.ok (ε := DecodeError) (j, rest) = .ok (i, bs)) : i = j ∧ w = kw ++ bs := by
  obtain ⟨rfl, rfl⟩ := Prod.mk.inj (Except.ok.inj h)
  exact ⟨rfl, strip_some hkw⟩

/-- R99, R100: what is read as an operation by name is the word of that operation. -/
theorem text_ok {w bs : List Byte} {i : Instr} (h : text w = .ok (i, bs)) :
    i.wellFormed = true ∧ w = encode i ++ bs := by
  unfold text at h
  split at h
  case h_1 hkw => obtain ⟨t, p, rfl, hw⟩ := typedOperation_ok hkw h; exact ⟨rfl, hw⟩
  split at h
  case h_1 hkw => obtain ⟨t, p, rfl, hw⟩ := typedOperation_ok hkw h; exact ⟨rfl, hw⟩
  split at h
  case h_1 hkw => obtain ⟨p, rfl, hw⟩ := payloadOperation_ok hkw h; exact ⟨rfl, hw⟩
  split at h
  case h_1 hkw => obtain ⟨p, rfl, hw⟩ := payloadOperation_ok hkw h; exact ⟨rfl, hw⟩
  split at h
  case h_1 hkw => obtain ⟨p, rfl, hw⟩ := payloadOperation_ok hkw h; exact ⟨rfl, hw⟩
  split at h
  case h_1 hkw =>
    obtain ⟨n, hlevel, rfl, hw⟩ := levelOperation_ok hkw h
    exact ⟨decide_eq_true hlevel, hw⟩
  split at h
  case h_1 hkw => obtain ⟨rfl, hw⟩ := bareOperation_ok hkw h; exact ⟨rfl, hw⟩
  split at h
  case h_1 hkw => obtain ⟨rfl, hw⟩ := bareOperation_ok hkw h; exact ⟨rfl, hw⟩
  split at h
  case h_1 hkw => obtain ⟨rfl, hw⟩ := bareOperation_ok hkw h; exact ⟨rfl, hw⟩
  split at h
  case h_1 hkw => obtain ⟨rfl, hw⟩ := bareOperation_ok hkw h; exact ⟨rfl, hw⟩
  split at h
  case h_1 hkw => obtain ⟨rfl, hw⟩ := bareOperation_ok hkw h; exact ⟨rfl, hw⟩
  split at h
  case h_1 hkw => obtain ⟨rfl, hw⟩ := bareOperation_ok hkw h; exact ⟨rfl, hw⟩
  cases h

/-- R58, R121: a word that is a frame's is the word of the row it is given. -/
theorem frame_ok {w bs : List Byte} {i : Instr}
    (h : ∃ t f, f.sized = true ∧ i = frameInstr t f ∧ w = frameForm t f ++ bs) :
    i.wellFormed = true ∧ w = encode i ++ bs := by
  obtain ⟨t, f, hsized, rfl, rfl⟩ := h
  have hrow := rowOf_frameInstr t f
  exact ⟨hrow.wellFormed hsized, by rw [hrow.word]⟩

/-- Settles O52: each of the decoder's three readings reads the word of the instruction it gives. -/
theorem encodeOfDecode : Obligations.EncodeOfDecode := by
  intro w bs i h
  unfold decode at h
  split at h
  case h_1 => cases h
  case h_2 b w =>
  split at h
  case isTrue hb => subst hb; exact frame_ok (received_ok h)
  case isFalse =>
  split at h
  case isTrue hb => subst hb; exact frame_ok (sent_ok h)
  case isFalse => exact text_ok h

/-! ## What is written is read back -/

/-- R99: an operation with a type and a payload is read back, where its name selects its operands. -/
theorem decode_typedOperation {kw : List Byte} {g : Byte → List Byte → Instr}
    (hkw : ∀ rest, decode (kw ++ rest) = (operand (typedLine rest)).map fun r => (g r.1 r.2.1, r.2.2))
    (t : Byte) (p bs : List Byte) : decode (kw ++ typedText t p ++ bs) = .ok (g t p, bs) := by
  rw [List.append_assoc, hkw, typedLine_text]
  rfl

/-- R100: an operation with a payload is read back, where its name selects its operand. -/
theorem decode_payloadOperation {kw : List Byte} {g : List Byte → Instr}
    (hkw : ∀ rest, decode (kw ++ rest) = (operand (payloadLine rest)).map fun r => (g r.1, r.2))
    (p bs : List Byte) : decode (kw ++ payloadText p ++ bs) = .ok (g p, bs) := by
  rw [List.append_assoc, hkw, payloadLine_text]
  rfl

/-- R194: a level 1 to 5 is read back. -/
theorem decode_setSecurity {n : Byte} (hlevel : 1 ≤ n.toNat ∧ n.toNat ≤ 5) (bs : List Byte) :
    decode (encode (.setSecurity n) ++ bs) = .ok (.setSecurity n, bs) := by
  have hline : (operand (levelLine (BitVec.ofNat 8 (48 + n.toNat) :: lineFeed :: bs))) = .ok (n, bs) := by
    rw [levelLine_text n bs hlevel]; rfl
  exact congrArg (Except.map fun r => (Instr.setSecurity r.1, r.2)) hline

/-- R58, R121: the row of a sized frame is read back from the frame. -/
theorem decode_rowWord {t : Byte} {f : FrameForm} {i : Instr} (hsized : f.sized = true) (hrow : frameInstr t f = i)
    (bs : List Byte) : decode (frameForm t f ++ bs) = .ok (i, bs) :=
  hrow ▸ decode_frameForm t hsized bs

/-- R96: a well-formed opcode row is read back. -/
theorem decode_opcodeRow (o : Opcode) {f : FrameForm} (h : f.sizedAfter (opcodeByte o) = true) (bs : List Byte) :
    decode (opcodeForm o f ++ bs) = .ok (opcodeInstr o f, bs) :=
  decode_rowWord (sized_cons_of_sizedAfter h).1 (frameInstr_cons_opcodeByte h) bs

/-- R97: a well-formed status row is read back. -/
theorem decode_statusRow (c : Status) {f : FrameForm} (h : f.sizedAfter (statusByte c) = true) (bs : List Byte) :
    decode (statusForm c f ++ bs) = .ok (statusInstr c f, bs) :=
  decode_rowWord (sized_cons_of_sizedAfter h).1 (frameInstr_cons_statusByte h) bs

/-- R90: a well-formed `FRAME.CMD` is the most specific row of its frame. -/
theorem frameInstr_of_frameCmd {f : FrameForm} (h : (f.firstPayload.bind opcodeOf).isNone = true) :
    frameInstr Config.tCmd f = .frameCmd f := by
  rw [frameInstr, if_pos rfl, Option.isNone_iff_eq_none.1 h]

/-- R90: a well-formed `FRAME.ACK` is the most specific row of its frame. -/
theorem frameInstr_of_frameAck {f : FrameForm} (h : (f.firstPayload.bind statusOf).isNone = true) :
    frameInstr Config.tAck f = .frameAck f := by
  rw [frameInstr, if_neg (by decide), if_pos rfl, Option.isNone_iff_eq_none.1 h]

/-- R91: a tag that no other row has gives `FRAME.OTHER`. -/
theorem frameInstr_of_frameOther {t : Byte} (f : FrameForm)
    (h : t ≠ Config.tCmd ∧ t ≠ Config.tData ∧ t ≠ Config.tAck ∧ t ≠ Config.tEnd) :
    frameInstr t f = .frameOther t f := by
  obtain ⟨hcmd, hdata, hack, hend⟩ := h
  rw [frameInstr, if_neg hcmd, if_neg hack, if_neg hdata, if_neg hend]

/-- Settles O51: an operation by its name and its operands, a frame row by the most specific row of its frame. -/
theorem decodeOfEncode : Obligations.DecodeOfEncode := by
  intro i bs hwf
  cases i with
  | encode t p => exact decode_typedOperation (fun _ => rfl) t p bs
  | exchange t p => exact decode_typedOperation (fun _ => rfl) t p bs
  | cmd p => exact decode_payloadOperation (fun _ => rfl) p bs
  | data p => exact decode_payloadOperation (fun _ => rfl) p bs
  | endData p => exact decode_payloadOperation (fun _ => rfl) p bs
  | setSecurity n => exact decode_setSecurity (of_decide_eq_true hwf) bs
  | decode | reset | verifyPwd | getImage | empty | readParams => rfl
  | frameCmd f =>
    obtain ⟨hsized, hnone⟩ := Bool.and_eq_true_iff.1 hwf
    exact decode_rowWord hsized (frameInstr_of_frameCmd hnone) bs
  | frameAck f =>
    obtain ⟨hsized, hnone⟩ := Bool.and_eq_true_iff.1 hwf
    exact decode_rowWord hsized (frameInstr_of_frameAck hnone) bs
  | frameData f => exact decode_rowWord hwf rfl bs
  | frameEnd f => exact decode_rowWord hwf rfl bs
  | frameOther t f =>
    obtain ⟨hsized, htag⟩ := Bool.and_eq_true_iff.1 hwf
    exact decode_rowWord hsized (frameInstr_of_frameOther f (of_decide_eq_true htag)) bs
  | opcGetImage f => exact decode_opcodeRow .getImage hwf bs
  | opcImg2Tz f => exact decode_opcodeRow .img2Tz hwf bs
  | opcHsSearch f => exact decode_opcodeRow .hsSearch hwf bs
  | opcRegModel f => exact decode_opcodeRow .regModel hwf bs
  | opcStore f => exact decode_opcodeRow .store hwf bs
  | opcLoad f => exact decode_opcodeRow .load hwf bs
  | opcUpload f => exact decode_opcodeRow .upload hwf bs
  | opcDownload f => exact decode_opcodeRow .download hwf bs
  | opcDelete f => exact decode_opcodeRow .delete hwf bs
  | opcEmpty f => exact decode_opcodeRow .empty hwf bs
  | opcSetParam f => exact decode_opcodeRow .setParam hwf bs
  | opcReadParams f => exact decode_opcodeRow .readParams hwf bs
  | opcVerifyPwd f => exact decode_opcodeRow .verifyPwd hwf bs
  | opcReadSysinfo f => exact decode_opcodeRow .readSysinfo hwf bs
  | opcTemplateCount f => exact decode_opcodeRow .templateCount hwf bs
  | stOk f => exact decode_statusRow .ok hwf bs
  | stRxErr f => exact decode_statusRow .rxErr hwf bs
  | stNoFinger f => exact decode_statusRow .noFinger hwf bs
  | stImageFail f => exact decode_statusRow .imageFail hwf bs
  | stNotFound f => exact decode_statusRow .notFound hwf bs
  | stEnrollMismatch f => exact decode_statusRow .enrollMismatch hwf bs

/-- Settles O53: each is the word of a well-formed instruction. -/
theorem wordsOfTheSpecDecode : Obligations.WordsOfTheSpecDecode :=
  ⟨decodeOfEncode (.opcVerifyPwd (.send [0x00, 0x00, 0x00, 0x00])) [] rfl,
    decodeOfEncode (.frameAck (.send [])) [] rfl,
    decodeOfEncode (.stNotFound (.recv ⟨0xFF, 0xFF, 0xFF, 0xFF⟩ 0x0003 [0x00, 0x13])) [] rfl,
    decodeOfEncode (.stOk (.recv ⟨0x01, 0x02, 0x03, 0x04⟩ 0x0003 [0x00, 0x0A])) [] rfl,
    decodeOfEncode .reset [] rfl⟩

end Sys2Proof.Proofs

/-! # What the pseudo-operations and the frame rows issue (R90, R96, R97, R100, R120, R181), and what arrives (R64) -/

namespace Sys2Proof.Proofs

open Sys2Proof.Machine Sys2Proof.Decode

/-! ## An operation accepted when the block is not BUSY (R120, R181) -/

/-- R120: an `ENCODE` is accepted when both halves are IDLE and the payload fits. -/
theorem encodeRefusal_of_idle {s : State} {p : List Byte} (hrx : s.rx.state = .idle) (htx : s.tx.state = .idle)
    (hp : p.length ≤ 65533) : s.encodeRefusal p = none := by
  have hbusy : s.busy = false := s.busy_eq_false_iff.2 ⟨hrx, htx⟩
  obtain ⟨hb, -⟩ | ⟨-, hlong, -⟩ | ⟨-, -, haccepted⟩ := s.encodeRefusal_cases p
  · exact absurd (hbusy.symm.trans hb) Bool.false_ne_true
  · exact absurd hp (Nat.not_le.2 hlong)
  · exact haccepted

/-- R120: issuing an accepted `ENCODE` loads its frame. -/
theorem issueEncode_of_idle {s : State} {p : List Byte} (hrx : s.rx.state = .idle) (htx : s.tx.state = .idle)
    (t : Byte) (hp : p.length ≤ 65533) : s.issueEncode t p = s.loadFrame t p := by
  rw [State.issueEncode, encodeRefusal_of_idle hrx htx hp]

/-- R181: beginning an accepted exchange loads its request, for whose end the host then waits. -/
theorem beginExchange_of_idle {s : State} {p : List Byte} (hrx : s.rx.state = .idle) (htx : s.tx.state = .idle)
    (g : Goal) (t : Byte) (hp : p.length ≤ 65533) :
    s.beginExchange g t p =
      { s with
        tx := { state := .send, buf := frame t p, idx := 0, res := .none }
        host := { s.host with task := .sending g, out := .none, refusal := none } } := by
  rw [State.beginExchange, encodeRefusal_of_idle hrx htx hp]
  rfl

/-- Settles O5: each is the `ENCODE` of its tag. -/
theorem cmdDataEndLoadTheirFrames : Obligations.CmdDataEndLoadTheirFrames := by
  intro s p hrx htx hp i t h
  have hexec : exec i s = .next (s.issueEncode t p) := by
    simp only [List.mem_cons, Prod.mk.injEq, List.not_mem_nil, or_false] at h
    obtain ⟨rfl, rfl⟩ | ⟨rfl, rfl⟩ | ⟨rfl, rfl⟩ := h <;> rfl
  rw [hexec, issueEncode_of_idle hrx htx t hp]
  rfl

/-- R100: the exchange an operation is, and that its request fits where the operand of `EXCHANGE` does. -/
theorem exec_exchange (s : State) {t n u : Byte} {p q : List Byte} {i : Instr}
    (h : (i, u, q) ∈
      [(Instr.exchange t p, t, p), (Instr.verifyPwd, (0x01 : Byte), [0x13, 0x00, 0x00, 0x00, 0x00]),
       (Instr.getImage, 0x01, [0x01]), (Instr.empty, 0x01, [0x0D]), (Instr.readParams, 0x01, [0x0F]),
       (Instr.setSecurity n, 0x01, [0x0E, 0x05, n])])
    (hp : p.length ≤ 65533) :
    exec i s = .next (s.beginExchange .exchange u q) ∧ q.length ≤ 65533 := by
  simp only [List.mem_cons, Prod.mk.injEq, List.not_mem_nil, or_false] at h
  obtain ⟨rfl, rfl, rfl⟩ | ⟨rfl, rfl, rfl⟩ | ⟨rfl, rfl, rfl⟩ | ⟨rfl, rfl, rfl⟩ | ⟨rfl, rfl, rfl⟩ |
    ⟨rfl, rfl, rfl⟩ := h
  · exact ⟨rfl, hp⟩
  all_goals exact ⟨rfl, by simp⟩

/-- Settles O6: each begins the exchange of its request. -/
theorem exchangesLoadTheirRequest : Obligations.ExchangesLoadTheirRequest := by
  intro s t n p hrx htx hp i u q h
  obtain ⟨hexec, hq⟩ := exec_exchange s h hp
  rw [hexec, beginExchange_of_idle hrx htx .exchange u hq]

/-! ## Frame rows handed to the TX framer, and frame rows that arrive (R90, R96, R97) -/

/-- R121: a frame handed to the TX framer when the block is not BUSY is loaded. -/
theorem handleFrame_send_of_idle {s : State} {p : List Byte} (hrx : s.rx.state = .idle) (htx : s.tx.state = .idle)
    (t : Byte) (hp : p.length ≤ 65533) : s.handleFrame t (.send p) = s.loadFrame t p :=
  issueEncode_of_idle hrx htx t hp

/-- Settles O7: a frame kind is the `ENCODE` of its tag. -/
theorem frameKindsAreSent : Obligations.FrameKindsAreSent := by
  intro s t p hrx htx hp i u h
  rw [exec_frameKind s h, handleFrame_send_of_idle hrx htx u hp]
  rfl

/-- R96: the opcode rows of form `f`, each with its opcode byte, in the order of the table. -/
def opcodeRows (f : FrameForm) : List (Instr × Byte) :=
  [Opcode.getImage, .img2Tz, .hsSearch, .regModel, .store, .load, .upload, .download, .delete, .empty, .setParam,
    .readParams, .verifyPwd, .readSysinfo, .templateCount].map fun o => (opcodeInstr o f, opcodeByte o)

/-- R97: the status rows of form `f`, each with its status byte, in the order of the table. -/
def statusRows (f : FrameForm) : List (Instr × Byte) :=
  [Status.ok, .rxErr, .noFinger, .imageFail, .notFound, .enrollMismatch].map fun c => (statusInstr c f, statusByte c)

/-- R96: an opcode row does what the command frame with its opcode in front does. -/
theorem exec_opcodeRow (s : State) {f : FrameForm} {i : Instr} {op : Byte} (h : (i, op) ∈ opcodeRows f) :
    exec i s = .next (s.handleFrame 0x01 (f.cons op)) := by
  obtain ⟨o, -, ho⟩ := List.mem_map.1 h
  obtain ⟨rfl, rfl⟩ := Prod.mk.inj ho
  cases o <;> rfl

/-- R97: a status row does what the acknowledgement with its status in front does. -/
theorem exec_statusRow (s : State) {f : FrameForm} {i : Instr} {st : Byte} (h : (i, st) ∈ statusRows f) :
    exec i s = .next (s.handleFrame 0x07 (f.cons st)) := by
  obtain ⟨c, -, hc⟩ := List.mem_map.1 h
  obtain ⟨rfl, rfl⟩ := Prod.mk.inj hc
  cases c <;> rfl

/-- Settles O9: the opcode takes one byte of the payload's room. -/
theorem opcodeRowsAreSent : Obligations.OpcodeRowsAreSent := by
  intro s p hrx htx hp i op h
  have hroom : (op :: p).length ≤ 65533 := Nat.succ_le_succ hp
  rw [exec_opcodeRow s (f := .send p) h]
  exact congrArg _ (handleFrame_send_of_idle hrx htx 0x01 hroom)

/-- Settles O10: the opcode stands in front of the body that arrives. -/
theorem opcodeRowsArrive : Obligations.OpcodeRowsArrive := by
  intro s a len body i op h
  rw [exec_opcodeRow s (f := .recv a len body) h]
  exact congrArg _ (handleFrame_recv s 0x01 a len (op :: body))

/-- Settles O11: the status takes one byte of the payload's room. -/
theorem statusRowsAreSent : Obligations.StatusRowsAreSent := by
  intro s p hrx htx hp i st h
  have hroom : (st :: p).length ≤ 65533 := Nat.succ_le_succ hp
  rw [exec_statusRow s (f := .send p) h]
  exact congrArg _ (handleFrame_send_of_idle hrx htx 0x07 hroom)

/-- Settles O12: the status stands in front of the body that arrives. -/
theorem statusRowsArrive : Obligations.StatusRowsArrive := by
  intro s a len body i st h
  rw [exec_statusRow s (f := .recv a len body) h]
  exact congrArg _ (handleFrame_recv s 0x07 a len (st :: body))

end Sys2Proof.Proofs

/-! # Issuing and carrying out `ENCODE` (R120 to R130), and the checksum as a register (R122) -/

namespace Sys2Proof.Proofs

open Sys2Proof.Machine

/-! ## An operation accepted and refused (R120, R126, R128, R159) -/

/-- Settles O3: an accepted `ENCODE` is the load of its frame. -/
theorem encodeLoadsTheFrame : Obligations.EncodeLoadsTheFrame := fun _ t _ hrx htx hp =>
  congrArg _ (issueEncode_of_idle hrx htx t hp)

/-- R90, R96, R97, R100: an instruction with operands `t`, `p` issues `ENCODE t, p`, by itself or as the first half of
an exchange. -/
theorem exec_of_request {i : Instr} {t : Byte} {p : List Byte} (h : request i = some (t, p)) (s : State) :
    exec i s = .next (s.issueEncode t p) ∨ exec i s = .next (s.beginExchange .exchange t p) := by
  cases i
  case decode | reset => cases h
  case encode | cmd | data | endData => cases h; exact .inl rfl
  case exchange | verifyPwd | getImage | empty | readParams | setSecurity => cases h; exact .inr rfl
  all_goals
    rename_i f
    cases f with
    | send q => cases h; exact .inl rfl
    | recv a len body => cases h

/-- R9, R120, R181: an instruction that issues `ENCODE t, p` is refused for the reason that `ENCODE` is. -/
theorem exec_of_encodeRefusal {s : State} {i : Instr} {t : Byte} {p : List Byte} {why : OpRefusal}
    (h : request i = some (t, p)) (hwhy : s.encodeRefusal p = some why) : exec i s = .next (s.refuse why) := by
  obtain he | he := exec_of_request h s
  · rw [he, State.issueEncode, hwhy]
  · rw [he, State.beginExchange, hwhy]

/-- R128, R217: where a half is busy, `Busy` is the reason, whatever the payload. -/
theorem encodeRefusal_of_busy {s : State} (hb : s.busy = true) (p : List Byte) : s.encodeRefusal p = some .busy := by
  rw [State.encodeRefusal, if_pos hb]

/-- R126: where no half is busy, a payload that is too long is the reason. -/
theorem encodeRefusal_of_long {s : State} {p : List Byte} (hb : s.busy = false) (hp : 65533 < p.length) :
    s.encodeRefusal p = some .txTooLong := by
  have hlong : p.length > Config.maxPayload := hp
  rw [State.encodeRefusal, hb, if_neg Bool.false_ne_true, if_pos hlong]

/-- R159: where a half is busy, `DECODE` is refused. -/
theorem exec_decode_of_busy {s : State} (hb : s.busy = true) : exec .decode s = .next (s.refuse .busy) := by
  rw [exec, execDecode, State.issueDecode, if_pos hb]

/-- Settles O13: every instruction is refused as the `ENCODE` or the `DECODE` it issues, for which `Busy` is tested
first. -/
theorem busyOrLongRequestIsRefused : Obligations.BusyOrLongRequestIsRefused := by
  intro s i
  refine ⟨fun hbusy h => ?_, fun hrx htx t p h hp => ?_⟩
  · have hb := s.busy_eq_true_iff.2 hbusy
    obtain h | rfl := h
    · obtain ⟨⟨t, p⟩, hreq⟩ := Option.ne_none_iff_exists'.1 h
      exact exec_of_encodeRefusal hreq (encodeRefusal_of_busy hb p)
    · exact exec_decode_of_busy hb
  · exact exec_of_encodeRefusal h (encodeRefusal_of_long (s.busy_eq_false_iff.2 ⟨hrx, htx⟩) hp)

/-! ## The checksum as a register (R122) -/

/-- R122: a register that wraps at every addition holds what it held plus the sum, reduced once. -/
theorem foldl_add_setWidth (bs : List Byte) (acc : Word16) :
    bs.foldl (fun (acc : Word16) b => acc + b.setWidth 16) acc = acc + BitVec.ofNat 16 (byteSum bs) := by
  induction bs generalizing acc with
  | nil => simp
  | cons b bs ih =>
    have hb : b.setWidth 16 = BitVec.ofNat 16 b.toNat := BitVec.eq_of_toNat_eq (by simp)
    rw [List.foldl_cons, ih, hb, byteSum_cons, BitVec.ofNat_add, BitVec.add_assoc]

/-- Settles O15: both are the sum of `LEN`'s two bytes, the type and the payload, reduced. -/
theorem checksumIsAWrappingRegister : Obligations.ChecksumIsAWrappingRegister := by
  intro t p
  rw [foldl_add_setWidth, chk]
  simp only [byteSum_cons, Nat.add_assoc]
  exact (BitVec.zero_add _).symm

/-! ## The TX step by the transport's answer (R123, R124, R125) -/

/-- R123: the byte was accepted. -/
theorem step_send_ok {s : State} {b : Byte} {l : Line} (hd : s.host.delays = []) (hs : s.tx.state = .send)
    (hb : s.tx.buf[s.tx.idx]? = some b) (hw : s.line.write b = (true, l)) :
    step s = .next ((s.setLine l).setTx
      { s.tx with
        idx := s.tx.idx + 1
        state := if s.tx.idx + 1 < s.tx.buf.length then .send else .flush }) := by
  rw [step_tx hd (by simp [hs])]
  simp only [txStep, txStepSend, hs, hb, hw]

/-- R123, R125: the write of the byte answered `Error`. -/
theorem step_send_error {s : State} {b : Byte} {l : Line} (hd : s.host.delays = []) (hs : s.tx.state = .send)
    (hb : s.tx.buf[s.tx.idx]? = some b) (hw : s.line.write b = (false, l)) :
    step s = .next (s.setLine l).raiseTx := by
  rw [step_tx hd (by simp [hs])]
  simp only [txStep, txStepSend, hs, hb, hw]

/-- R124: the flush was answered `Ok`. -/
theorem step_flush_ok {s : State} {l : Line} (hd : s.host.delays = []) (hs : s.tx.state = .flush)
    (hf : s.line.flush = (true, l)) : step s = .next ((s.setLine l).setTx (Tx.idleWith .done)) := by
  rw [step_tx hd (by simp [hs])]
  simp only [txStep, txStepFlush, hs, hf]

/-- R124, R125: the flush was answered `Error`. -/
theorem step_flush_error {s : State} {l : Line} (hd : s.host.delays = []) (hs : s.tx.state = .flush)
    (hf : s.line.flush = (false, l)) : step s = .next (s.setLine l).raiseTx := by
  rw [step_tx hd (by simp [hs])]
  simp only [txStep, txStepFlush, hs, hf]

/-- Settles O19: the answer to the write picks the case. -/
theorem txSendStep : Obligations.TxSendStep := fun _ _ hd hs hb =>
  ⟨fun _ hw => step_send_ok hd hs hb hw, fun _ hw => step_send_error hd hs hb hw⟩

/-! ## An `ENCODE` in progress -/

/-- R35 items 7 and 8: an `ENCODE` of the frame `f` after `i` of its bytes were accepted, with the transport `l`;
everything else is as in `s`. -/
def sendingAt (s : State) (f : List Byte) (i : Nat) (l : Line) : State :=
  { s with
    line := l
    tx := { state := if i < f.length then .send else .flush, buf := f, idx := i, res := .none } }

/-- R120: a frame that was just loaded. -/
theorem eq_sendingAt_zero {s : State} {t : Byte} {p : List Byte}
    (h : s.tx = { state := .send, buf := frame t p, idx := 0, res := .none }) :
    s = sendingAt s (frame t p) 0 s.line := by
  have hpos : 0 < (frame t p).length := by simp
  refine State.ext' rfl rfl ?_ rfl rfl
  rw [h, sendingAt, if_pos hpos]

section
variable {s : State} {f : List Byte} {i : Nat} {l l' : Line}

/-- R123: bytes are left. -/
theorem sendingAt_state_of_lt (hi : i < f.length) : (sendingAt s f i l).tx.state = .send := if_pos hi

/-- R123: no byte is left. -/
theorem sendingAt_state_of_length : (sendingAt s f f.length l).tx.state = .flush := if_neg (Nat.lt_irrefl _)

/-- R123: one more byte is accepted. -/
theorem step_sendingAt_ok (hd : s.host.delays = []) (hi : i < f.length) (hw : l.write f[i] = (true, l')) :
    step (sendingAt s f i l) = .next (sendingAt s f (i + 1) l') :=
  step_send_ok (s := sendingAt s f i l) hd (sendingAt_state_of_lt hi) (List.getElem?_eq_getElem hi) hw

/-- R125: a byte is not accepted. -/
theorem step_sendingAt_error (hd : s.host.delays = []) (hi : i < f.length) (hw : l.write f[i] = (false, l')) :
    step (sendingAt s f i l) = .next (s.setLine l').raiseTx :=
  step_send_error (s := sendingAt s f i l) hd (sendingAt_state_of_lt hi) (List.getElem?_eq_getElem hi) hw

/-- R124: all bytes were accepted, and the flush is too. -/
theorem step_sent_ok (hd : s.host.delays = []) (hf : l.flush = (true, l')) :
    step (sendingAt s f f.length l) = .next ((s.setLine l').setTx (Tx.idleWith .done)) :=
  step_flush_ok (s := sendingAt s f f.length l) hd sendingAt_state_of_length hf

/-- R125: all bytes were accepted, but the flush is not. -/
theorem step_sent_error (hd : s.host.delays = []) (hf : l.flush = (false, l')) :
    step (sendingAt s f f.length l) = .next (s.setLine l').raiseTx :=
  step_flush_error (s := sendingAt s f f.length l) hd sendingAt_state_of_length hf

/-- A run and then one more step. -/
theorem runSteps_step {k : Nat} {s₁ s₂ : State} (hrun : runSteps k s = .next s₁) (hstep : step s₁ = .next s₂) :
    runSteps (k + 1) s = .next s₂ :=
  (runSteps_add k 1 s s₁ hrun).trans (runSteps_succ hstep 0)

/-- The induction over the bytes of a frame: where `P i` holds of the transport after `i` accepted bytes, and the
transport accepts the next one and then meets `P (i + 1)`, `k` steps hand over `k` bytes. -/
theorem runSteps_sending {P : Nat → Line → Prop} {k : Nat} (hd : s.host.delays = []) (hk : k ≤ f.length) (h0 : P 0 l)
    (hP : ∀ (i : Nat) (hi : i < f.length) (l : Line), i < k → P i l → ∃ l', l.write f[i] = (true, l') ∧ P (i + 1) l') :
    ∃ l', runSteps k (sendingAt s f 0 l) = .next (sendingAt s f k l') ∧ P k l' := by
  induction k with
  | zero => exact ⟨l, rfl, h0⟩
  | succ k ih =>
    obtain ⟨l₁, hrun, h₁⟩ := ih (by omega) fun i hi l hik => hP i hi l (by omega)
    obtain ⟨l₂, hw, h₂⟩ := hP k hk l₁ (Nat.lt_succ_self k) h₁
    exact ⟨l₂, runSteps_step hrun (step_sendingAt_ok hd hk hw), h₂⟩

end

/-! ## A byte that is accepted (R56, R57) -/

/-- R57: the reference transport puts it on the line. -/
theorem write_of_answer_reference {l l' : Line} (hans : l.answer = (true, l')) (hk : l'.kind = .reference) (b : Byte) :
    l.write b = (true, { l' with lineOut := l'.lineOut ++ [b] }) := by
  rcases l'
  cases hk
  simp only [Line.write, hans]

/-- R56, R241: the oracle puts it behind those not yet flushed, of which a part runs ahead. -/
theorem write_of_answer_oracle {l l' : Line} (hans : l.answer = (true, l')) (hk : l'.kind = .oracle) (b : Byte) :
    l.write b =
      (true, { l' with sendBuf := l'.sendBuf ++ [b], tick := l'.tick + 1 }.runAhead (Config.early l'.tick)) := by
  rcases l'
  cases hk
  simp only [Line.write, hans]

/-! ## Over the reference transport (R57, R129) -/

/-- R57: the reference transport `l` after the bytes `bs` were written to it. -/
def onLine (l : Line) (bs : List Byte) : Line := { l with lineOut := l.lineOut ++ bs }

section
variable {l : Line} (ho : l.isOpen = true) (hk : l.kind = .reference)
include ho hk

/-- R57: a byte that is written is on the line. -/
theorem write_onLine (bs : List Byte) (b : Byte) : (onLine l bs).write b = (true, onLine l (bs ++ [b])) := by
  have hans : (onLine l bs).answer = (true, onLine l bs) := Line.answer_reference ho hk
  rw [write_of_answer_reference hans hk, onLine, onLine, List.append_assoc]

/-- R57: a flush with nothing to flush changes nothing but the count of the bytes that ran ahead. -/
theorem flush_onLine (bs : List Byte) (hb : l.sendBuf = []) :
    (onLine l bs).flush = (true, { onLine l bs with early := 0 }) := by
  have hans : (onLine l bs).answer = (true, onLine l bs) := Line.answer_reference ho hk
  have hbuf : (onLine l bs).sendBuf = [] := hb
  simp [Line.flush, hans, hbuf]

end

/-- R129 item 1: a loaded frame, sent over the reference transport. -/
theorem runSteps_reference {s : State} {f : List Byte} (hd : s.host.delays = []) (ho : s.line.isOpen = true)
    (hk : s.line.kind = .reference) (hb : s.line.sendBuf = []) :
    runSteps (f.length + 1) (sendingAt s f 0 s.line) =
      .next ((s.setLine { onLine s.line f with early := 0 }).setTx (Tx.idleWith .done)) := by
  have hstart : s.line = onLine s.line (f.take 0) := by simp [onLine]
  obtain ⟨l, hrun, rfl⟩ := runSteps_sending (P := fun i l => l = onLine s.line (f.take i)) hd le_rfl hstart <| by
    rintro i hi l - rfl
    exact ⟨_, write_onLine ho hk (f.take i) f[i], by rw [List.take_append_getElem]⟩
  rw [List.take_length] at hrun
  exact runSteps_step hrun (step_sent_ok hd (flush_onLine ho hk f hb))

/-- Settles O22: the frame is loaded, and each step puts one byte on the line. -/
theorem encodeOverReferenceTransport : Obligations.EncodeOverReferenceTransport := by
  intro s t p hrx htx hp hd ho hk hb
  have hcount : p.length + 12 = (frame t p).length + 1 := by rw [frame_length]
  have hrun := runSteps_reference (s := s.loadFrame t p) (f := frame t p) hd ho hk hb
  rw [← eq_sendingAt_zero (s.loadFrame_tx t p), ← hcount] at hrun
  exact ⟨s.loadFrame t p, congrArg _ (issueEncode_of_idle hrx htx t hp), hrun⟩

/-! ## Over an oracle with a schedule (R56, R125) -/

/-- Up to the `m`-th and on to the `k`-th is up to the later of the two, `e` left out at the front. -/
theorem drop_take_append_drop_take (xs : List Byte) (e k : Nat) {m : Nat} (hm : m ≤ xs.length) :
    (xs.take m).drop e ++ (xs.take k).drop (max e m) = (xs.take (max m k)).drop e := by
  apply List.ext_getElem?
  intro i
  simp only [List.getElem?_append, List.length_drop, List.length_take, List.getElem?_drop, List.getElem?_take]
  grind

/-- Where bytes ran ahead of the flush, and then others reach the line, of a send buffer with `ys` behind it, they are
together a prefix of that buffer, without what was on the line before. -/
theorem runAhead_lineOut_append (l : Line) (ys : List Byte) (m k : Nat) :
    (l.runAhead m).lineOut ++ ((l.sendBuf ++ ys).take k).drop (l.runAhead m).early =
      l.lineOut ++ ((l.sendBuf ++ ys).take (max (min m l.sendBuf.length) k)).drop l.early := by
  have htake : l.sendBuf.take m = (l.sendBuf ++ ys).take (min m l.sendBuf.length) := by
    rw [List.take_append_of_le_length (Nat.min_le_right _ _), ← List.take_eq_take_min]
  have hm : min m l.sendBuf.length ≤ (l.sendBuf ++ ys).length := by simp
  simp only [Line.runAhead]
  rw [List.append_assoc, htake, drop_take_append_drop_take _ _ _ hm]

/-- R56: the transport `l` after it accepted the bytes `bs`: they stand in the send buffer, of which a part, up to the
`m`-th byte, has run ahead of the flush. `as` are the answers still to come, `n` the count of free values. -/
def accepted (l : Line) (bs : List Byte) (as : List Bool) (n m : Nat) : Line :=
  { l with answers := as, tick := n, sendBuf := l.sendBuf ++ bs }.runAhead m

/-- The transport that has accepted nothing yet. -/
theorem eq_accepted_nil (l : Line) : l = accepted l [] l.answers l.tick 0 := by
  simp [accepted, Line.runAhead]

/-- R241: bytes that run ahead once more, after a further byte was accepted. -/
theorem runAhead_accepted (l : Line) (bs : List Byte) (b : Byte) (as : List Bool) (n n' m k : Nat) :
    { accepted l bs as n m with sendBuf := l.sendBuf ++ bs ++ [b], tick := n' }.runAhead k =
      accepted l (bs ++ [b]) as n' (max (min m (l.sendBuf ++ bs).length) k) := by
  have hout := runAhead_lineOut_append { l with sendBuf := l.sendBuf ++ bs } [b] m k
  have hearly :
      max (max l.early (min m (l.sendBuf ++ bs).length)) (min k (l.sendBuf ++ bs ++ [b]).length) =
        max l.early (min (max (min m (l.sendBuf ++ bs).length) k) (l.sendBuf ++ bs ++ [b]).length) := by
    rw [List.length_append (bs := [b])]; omega
  simp only [accepted, Line.runAhead, ← List.append_assoc] at hout ⊢
  rw [hout, hearly]

section
variable {l : Line} (ho : l.isOpen = true) (hk : l.kind = .oracle)
include ho hk

/-- R56: the next answer of the schedule. -/
theorem answer_accepted (bs : List Byte) (a : Bool) (as : List Bool) (n m : Nat) :
    (accepted l bs (a :: as) n m).answer = (a, accepted l bs as n m) :=
  Line.answer_of_cons ho hk rfl

/-- R56: one more byte is accepted. -/
theorem write_accepted_ok (bs : List Byte) (b : Byte) (as : List Bool) (n m : Nat) :
    ∃ n' m', (accepted l bs (true :: as) n m).write b = (true, accepted l (bs ++ [b]) as n' m') :=
  ⟨_, _, (write_of_answer_oracle (answer_accepted ho hk bs true as n m) hk b).trans
    (congrArg _ (runAhead_accepted ..))⟩

/-- R125: one more byte is not accepted; it is among those that may reach the line. -/
theorem write_accepted_error (bs : List Byte) (b : Byte) (as : List Bool) (n m : Nat) :
    (accepted l bs (false :: as) n m).write b =
      (false, (accepted l bs as n m).lose (l.sendBuf ++ (bs ++ [b]))) := by
  rw [← List.append_assoc]
  simp only [Line.write, answer_accepted ho hk]
  rfl

/-- R56, R61: the flush puts the accepted bytes on the line, behind those that ran ahead. -/
theorem flush_accepted_ok (bs : List Byte) (as : List Bool) (n m : Nat) :
    (accepted l bs (true :: as) n m).flush =
      (true,
        { l with
          answers := as, sendBuf := [], early := 0, tick := n
          lineOut := l.lineOut ++ (l.sendBuf ++ bs).drop l.early }) := by
  have hout := Line.runAhead_bound { l with answers := as, tick := n, sendBuf := l.sendBuf ++ bs } m
  simp only [Line.flush, answer_accepted ho hk]
  simp only at hout
  rw [← hout]
  rfl

/-- R125: the flush fails. -/
theorem flush_accepted_error (bs : List Byte) (as : List Bool) (n m : Nat) :
    (accepted l bs (false :: as) n m).flush = (false, (accepted l bs as n m).lose (l.sendBuf ++ bs)) := by
  simp only [Line.flush, answer_accepted ho hk]
  rfl

end

/-- R56: `l'` is the transport `l`, whose next `k` answers are `Ok` and then `as`, after it accepted the first `i` bytes
of `f`. -/
def AcceptedOf (l : Line) (f : List Byte) (k : Nat) (as : List Bool) (i : Nat) (l' : Line) : Prop :=
  ∃ n m, l' = accepted l (f.take i) (List.replicate (k - i) true ++ as) n m

/-- R56: before the first of these writes. -/
theorem acceptedOf_zero {l : Line} {k : Nat} {as : List Bool} (f : List Byte)
    (has : l.answers = List.replicate k true ++ as) : AcceptedOf l f k as 0 l := by
  refine ⟨l.tick, 0, ?_⟩
  rw [Nat.sub_zero, List.take_zero, ← has]
  exact eq_accepted_nil l

/-- R56: the next of these writes is accepted. -/
theorem acceptedOf_write {l l' : Line} {f : List Byte} {k i : Nat} {as : List Bool} (ho : l.isOpen = true)
    (hk : l.kind = .oracle) (hi : i < f.length) (hik : i < k) (h : AcceptedOf l f k as i l') :
    ∃ l'', l'.write f[i] = (true, l'') ∧ AcceptedOf l f k as (i + 1) l'' := by
  obtain ⟨n, m, rfl⟩ := h
  have hnext : k - i = k - (i + 1) + 1 := by omega
  rw [hnext, List.replicate_succ, List.cons_append]
  obtain ⟨n', m', hw⟩ := write_accepted_ok ho hk (f.take i) f[i] (List.replicate (k - (i + 1)) true ++ as) n m
  rw [List.take_append_getElem] at hw
  exact ⟨_, hw, n', m', rfl⟩

/-- R123: the first `k` bytes of a frame, over an oracle whose next `k` answers are `Ok`. -/
theorem runSteps_accepted {s : State} {f : List Byte} {k : Nat} {as : List Bool} (hd : s.host.delays = [])
    (ho : s.line.isOpen = true) (hk : s.line.kind = .oracle) (hf : k ≤ f.length)
    (has : s.line.answers = List.replicate k true ++ as) :
    ∃ n m, runSteps k (sendingAt s f 0 s.line) = .next (sendingAt s f k (accepted s.line (f.take k) as n m)) := by
  obtain ⟨l, hrun, n, m, rfl⟩ := runSteps_sending hd hf (acceptedOf_zero f has)
    fun _ hi _ hik h => acceptedOf_write ho hk hi hik h
  rw [Nat.sub_self] at hrun
  exact ⟨n, m, hrun⟩

/-- R124: a loaded frame, sent over an oracle that answers `Ok` to every write and to the flush. -/
theorem runSteps_encode_ok {s : State} {f : List Byte} {later : List Bool} (hd : s.host.delays = [])
    (ho : s.line.isOpen = true) (hk : s.line.kind = .oracle)
    (has : s.line.answers = List.replicate (f.length + 1) true ++ later) :
    ∃ n, runSteps (f.length + 1) (sendingAt s f 0 s.line) =
      .next ((s.setLine
        { s.line with
          answers := later, sendBuf := [], early := 0, tick := n
          lineOut := s.line.lineOut ++ (s.line.sendBuf ++ f).drop s.line.early }).setTx (Tx.idleWith .done)) := by
  rw [List.replicate_succ', List.append_assoc] at has
  obtain ⟨n, m, hrun⟩ := runSteps_accepted hd ho hk le_rfl has
  rw [List.take_length] at hrun
  exact ⟨n, runSteps_step hrun (step_sent_ok hd (flush_accepted_ok ho hk f later n m))⟩

/-- Settles O20: the FLUSH step by its answer, and a whole `ENCODE` whose calls are all answered `Ok`. -/
theorem encodeCompletesOnTheLine : Obligations.EncodeCompletesOnTheLine := by
  refine ⟨fun s hd hs => ⟨fun l hf => step_flush_ok hd hs hf, fun l hf => step_flush_error hd hs hf⟩, ?_⟩
  intro s t p later hd htx ho hk has
  have hcount : p.length + 12 = (frame t p).length + 1 := by rw [frame_length]
  rw [hcount] at has ⊢
  have hrun := runSteps_encode_ok hd ho hk has
  rw [← eq_sendingAt_zero htx] at hrun
  exact hrun

/-- R125: after the first `k` bytes were accepted the next call, a write or the flush, fails: its byte is among those
that may reach the line. -/
theorem step_accepted_error {s : State} {f : List Byte} {k : Nat} (hd : s.host.delays = []) (ho : s.line.isOpen = true)
    (hk : s.line.kind = .oracle) (hf : k ≤ f.length) (as : List Bool) (n m : Nat) :
    step (sendingAt s f k (accepted s.line (f.take k) (false :: as) n m)) =
      .next (s.setLine
        ((accepted s.line (f.take k) as n m).lose (s.line.sendBuf ++ f.take (k + 1)))).raiseTx := by
  obtain hlt | rfl := Nat.lt_or_eq_of_le hf
  · rw [← List.take_append_getElem hlt]
    exact step_sendingAt_error hd hlt (write_accepted_error ho hk _ _ as n m)
  · rw [List.take_of_length_le (Nat.le_succ _), List.take_length]
    exact step_sent_error hd (flush_accepted_error ho hk f as n m)

/-- R125: where the call behind the first `k` bytes failed, a prefix of what could have gone out is on the line. -/
theorem lose_accepted_lineOut (l : Line) (f : List Byte) (k : Nat) (as : List Bool) (n m : Nat) :
    ∃ j, ((accepted l (f.take k) as n m).lose (l.sendBuf ++ f.take (k + 1))).lineOut =
      l.lineOut ++ ((l.sendBuf ++ f.take (k + 1)).take j).drop l.early := by
  rw [List.take_add, ← List.append_assoc]
  exact ⟨_, runAhead_lineOut_append { l with answers := as, tick := n, sendBuf := l.sendBuf ++ f.take k } _ m _⟩

/-- Settles O21: `k` bytes are accepted, and the step after them fails. -/
theorem encodeFailsAtAnyCall : Obligations.EncodeFailsAtAnyCall := by
  intro s t p k later hd htx ho hk hlt has
  have hf : k ≤ (frame t p).length := by rw [frame_length]; omega
  obtain ⟨n, m, hsent⟩ := runSteps_accepted hd ho hk hf has
  obtain ⟨j, hout⟩ := lose_accepted_lineOut s.line (frame t p) k later n m
  have hrun := runSteps_step hsent (step_accepted_error hd ho hk hf later n m)
  rw [← eq_sendingAt_zero htx] at hrun
  exact ⟨j, _, hrun, ho, hk, rfl, rfl, rfl, rfl, rfl, hout⟩

end Sys2Proof.Proofs

/-! # Issuing and carrying out `DECODE` (R140 to R163): the RX step by the transport's answer -/

namespace Sys2Proof.Proofs

open Sys2Proof.Machine

/-- Settles O4: an accepted `DECODE` is the start of the hunt. -/
theorem decodeStartsTheHunt : Obligations.DecodeStartsTheHunt := by
  intro s hrx htx
  have hbusy : s.busy = false := s.busy_eq_false_iff.2 ⟨hrx, htx⟩
  rw [exec, execDecode, State.issueDecode, if_neg (by simp [hbusy])]
  rfl

/-! ## The header check and the completion, on a buffer written out (R145 to R151) -/

/-- R145, R146, R147: on nine bytes the header check answers a next state: marker before length. -/
theorem headerCheck_of_nine {s : State} {m n a0 a1 a2 a3 t h l : Byte}
    (hbuf : s.rx.buf = [m, n, a0, a1, a2, a3, t, h, l]) :
    headerCheck s = .next
      (if ¬(m = 0xEF ∧ n = 0x01) then s.raiseRx .badData .marker
      else if (be16 h l).toNat < 2 ∨ s.par.maxLen.toNat < (be16 h l).toNat then s.raiseRx .badData .length
      else s.setRx
        { s.rx with
          len := be16 h l, sum := BitVec.ofNat 16 (t.toNat + h.toNat + l.toNat), state := .body }) := by
  simp only [headerCheck, hbuf, List.getElem?_cons_zero, List.getElem?_cons_succ, Config.markerHi, Config.markerLo,
    Config.lenBias, not_and_or, gt_iff_lt]
  by_cases hmarker : m ≠ 0xEF ∨ n ≠ 0x01
  · rw [if_pos hmarker, if_pos hmarker]
  · rw [if_neg hmarker, if_neg hmarker]
    by_cases hlo : (be16 h l).toNat < 2
    · rw [if_pos hlo, if_pos (.inl hlo)]
    · by_cases hhi : s.par.maxLen.toNat < (be16 h l).toNat
      · rw [if_neg hlo, if_pos hhi, if_pos (.inr hhi)]
      · rw [if_neg hlo, if_neg hhi, if_neg (not_or.2 ⟨hlo, hhi⟩)]

/-- R150, R151: on the bytes of a whole frame the completion ends the `DECODE`. -/
theorem complete_of_whole {s : State} {m n a0 a1 a2 a3 t h k ch cl : Byte} {p : List Byte}
    (hbuf : s.rx.buf = m :: n :: a0 :: a1 :: a2 :: a3 :: t :: h :: k :: (p ++ [ch, cl]))
    (hlen : s.rx.len.toNat = p.length + 2) :
    complete s = .next (s.setRx (Rx.idleWith
      (if s.par.chkVerify = true ∧ be16 ch cl ≠ s.rx.sum then .err .badData .checksum else .reply (t :: p)))) := by
  have hch : s.rx.buf[7 + s.rx.len.toNat]? = some ch := by
    rw [hbuf, hlen, show 7 + (p.length + 2) = p.length + 9 by omega]; simp
  have hcl : s.rx.buf[8 + s.rx.len.toNat]? = some cl := by
    rw [hbuf, hlen, show 8 + (p.length + 2) = p.length + 1 + 9 by omega]; simp
  have ht : s.rx.buf[6]? = some t := by rw [hbuf]; rfl
  have hp : slice? 9 (7 + s.rx.len.toNat) s.rx.buf = some p := by
    rw [slice?_eq_some, hbuf, hlen, show 7 + (p.length + 2) = p.length + 9 by omega]; simp
  simp only [complete, hch, hcl, ht, hp]
  split <;> rfl

/-- R148: a byte in BODY, appended and summed. -/
theorem append_addSum (s : State) (b : Byte) :
    (s.append b).addSum s.rx.cnt b = s.setRx
      { s.rx with
        buf := s.rx.buf ++ [b]
        cnt := s.rx.cnt + 1
        sum := if s.rx.cnt < 7 + s.rx.len.toNat then s.rx.sum + b.setWidth 16 else s.rx.sum } := by
  unfold State.addSum
  by_cases hpayload : s.rx.cnt < 7 + s.rx.len.toNat
  · rw [if_pos hpayload]; exact if_pos hpayload
  · rw [if_neg hpayload]; exact if_neg hpayload

/-! ## One step by the event that is read (R141) -/

/-- R152: no byte came, whatever the half was doing. -/
theorem rxEvent_timeout {s : State} (hr : s.rx.state ≠ .idle) :
    rxEvent .timeout s = .next (s.raiseRx .notResponding .none) := by
  cases hs : s.rx.state with
  | idle => exact absurd hs hr
  | hunt | head | body => simp only [rxEvent, hs]

/-- R153: the read failed, whatever the half was doing. -/
theorem rxEvent_error {s : State} (hr : s.rx.state ≠ .idle) :
    rxEvent .error s = .next (s.raiseRx .cantRead .none) := by
  cases hs : s.rx.state with
  | idle => exact absurd hs hr
  | hunt | head | body => simp only [rxEvent, hs]

section
variable {s : State} {l : Line} (hd : s.host.delays = []) (ht : s.tx.state = .idle)
include hd ht

/-- R141: the step is the deframer's answer to the event. -/
theorem step_read {e : LineEvent} (hr : s.rx.state ≠ .idle) (hread : s.line.read = (e, l)) :
    step s = rxEvent e (s.setLine l) := by
  rw [step_rx hd ht hr, hread]

/-- R152: no byte came. -/
theorem step_timeout (hr : s.rx.state ≠ .idle) (hread : s.line.read = (.timeout, l)) :
    step s = .next ((s.setLine l).raiseRx .notResponding .none) :=
  (step_read hd ht hr hread).trans (rxEvent_timeout hr)

/-- R153: the read failed. -/
theorem step_error (hr : s.rx.state ≠ .idle) (hread : s.line.read = (.error, l)) :
    step s = .next ((s.setLine l).raiseRx .cantRead .none) :=
  (step_read hd ht hr hread).trans (rxEvent_error hr)

variable {b : Byte}

/-- R142, R143: a byte in HUNT. -/
theorem step_hunt (hs : s.rx.state = .hunt) (hread : s.line.read = (.byte b, l)) :
    step s = rxHunt b (s.setLine l) := by
  rw [step_read hd ht (by simp [hs]) hread]
  simp only [rxEvent, State.setLine_rx, hs]

/-- R144: a byte in HEAD. -/
theorem step_head (hs : s.rx.state = .head) (hread : s.line.read = (.byte b, l)) :
    step s = rxHead b (s.setLine l) := by
  rw [step_read hd ht (by simp [hs]) hread]
  simp only [rxEvent, State.setLine_rx, hs]

/-- R148: a byte in BODY. -/
theorem step_body (hs : s.rx.state = .body) (hread : s.line.read = (.byte b, l)) :
    step s = rxBody b (s.setLine l) := by
  rw [step_read hd ht (by simp [hs]) hread]
  simp only [rxEvent, State.setLine_rx, hs]

/-- R142: a byte in HUNT that is discarded. -/
theorem step_hunt_discard (hs : s.rx.state = .hunt) (hread : s.line.read = (.byte b, l)) (hb : b ≠ 0xEF) :
    step s = .next (s.setLine l) := by
  rw [step_hunt hd ht hs hread]
  exact if_neg hb

/-- R143: the sync byte. -/
theorem step_hunt_sync (hs : s.rx.state = .hunt) (hread : s.line.read = (.byte 0xEF, l)) :
    step s = .next ((s.setLine l).setRx { s.rx with state := .head, buf := [0xEF], cnt := 1 }) := by
  rw [step_hunt hd ht hs hread]
  rfl

/-- R144: a byte in HEAD that is not the ninth. -/
theorem step_head_append (hs : s.rx.state = .head) (hread : s.line.read = (.byte b, l)) (hc : s.rx.cnt + 1 ≠ 9) :
    step s = .next ((s.setLine l).append b) := by
  rw [step_head hd ht hs hread]
  exact if_neg hc

/-- R144, R145: the ninth byte in HEAD, and the header check on the buffer with it. -/
theorem step_head_ninth (hs : s.rx.state = .head) (hread : s.line.read = (.byte b, l)) (hc : s.rx.cnt = 8) :
    step s = headerCheck ((s.setLine l).append b) := by
  rw [step_head hd ht hs hread]
  exact if_pos (congrArg (· + 1) hc)

/-- R148: a byte in BODY that is not the last. -/
theorem step_body_append (hs : s.rx.state = .body) (hread : s.line.read = (.byte b, l))
    (hc : s.rx.cnt + 1 ≠ 9 + s.rx.len.toNat) :
    step s = .next ((s.setLine l).setRx
      { s.rx with
        buf := s.rx.buf ++ [b]
        cnt := s.rx.cnt + 1
        sum := if s.rx.cnt < 7 + s.rx.len.toNat then s.rx.sum + b.setWidth 16 else s.rx.sum }) := by
  rw [step_body hd ht hs hread, rxBody, append_addSum]
  exact if_neg hc

/-- R148, R149: the last byte in BODY is a checksum byte, so it is not summed; the completion follows. -/
theorem step_body_last (hs : s.rx.state = .body) (hread : s.line.read = (.byte b, l))
    (hc : s.rx.cnt = 8 + s.rx.len.toNat) : step s = complete ((s.setLine l).append b) := by
  rw [step_body hd ht hs hread]
  have hlast : s.rx.cnt + 1 = 9 + s.rx.len.toNat := by omega
  have hchecksum : ¬s.rx.cnt < 7 + s.rx.len.toNat := by omega
  have hunsummed : ((s.setLine l).append b).addSum (s.setLine l).rx.cnt b = (s.setLine l).append b := if_neg hchecksum
  rw [rxBody, hunsummed]
  exact if_pos hlast

end

/-- Settles O26: the byte picks the case. -/
theorem huntStep : Obligations.HuntStep := by
  intro s b l hd ht hs hread
  refine ⟨step_hunt_discard hd ht hs hread, ?_⟩
  rintro rfl
  exact step_hunt_sync hd ht hs hread

/-- Settles O28: with the ninth byte the header check picks the case. -/
theorem headStep : Obligations.HeadStep := by
  intro s x l hd ht hs hread
  refine ⟨step_head_append hd ht hs hread, ?_⟩
  intro m n a0 a1 a2 a3 t h hcnt hbuf
  have hnine : ((s.setLine l).append x).rx.buf = [m, n, a0, a1, a2, a3, t, h, x] := by simp [hbuf]
  rw [step_head_ninth hd ht hs hread hcnt, headerCheck_of_nine hnine, be16_toNat]
  refine ⟨fun hmarker => ?_, fun hm hn hrange => ?_, fun hm hn hlo hhi => ?_⟩
  · rw [if_pos hmarker]; rfl
  · rw [if_neg (not_not.2 ⟨hm, hn⟩)]
    exact congrArg _ (if_pos hrange)
  · rw [if_neg (not_not.2 ⟨hm, hn⟩)]
    refine congrArg _ ((if_neg (by simp only [State.append_par, State.setLine_par]; omega)).trans ?_)
    simp only [State.append_rx, State.setLine_rx, hbuf, hcnt]
    rfl

/-- Settles O29: the byte is appended, and summed by its index. -/
theorem bodyStep : Obligations.BodyStep := fun _ _ _ hd ht hs hread hc => step_body_append hd ht hs hread hc

/-- Settles O30: on the buffer with the last byte the checksum comparison picks the case. -/
theorem lastByteStep : Obligations.LastByteStep := by
  intro s m n a0 a1 a2 a3 t h k ch cl p l hd ht hs hread hlen hcnt hbuf
  have hwhole : ((s.setLine l).append cl).rx.buf =
      m :: n :: a0 :: a1 :: a2 :: a3 :: t :: h :: k :: (p ++ [ch, cl]) := by simp [hbuf]
  have heq : be16 ch cl = s.rx.sum ↔ 256 * ch.toNat + cl.toNat = s.rx.sum.toNat := by
    rw [← BitVec.toNat_inj, be16_toNat]
  rw [step_body_last hd ht hs hread hcnt, complete_of_whole hwhole hlen]
  refine ⟨fun hverify hne => ?_, fun hpass => ?_⟩
  · rw [if_pos ⟨hverify, mt heq.1 hne⟩]; rfl
  · rw [if_neg]
    · rfl
    · rintro ⟨hverify, hne⟩
      obtain hoff | hsum := hpass
      · exact Bool.false_ne_true (hoff.symm.trans hverify)
      · exact hne (heq.2 hsum)

/-- Settles O31: whatever the half was doing, the event alone decides. -/
theorem readFailuresEndTheDecode : Obligations.ReadFailuresEndTheDecode := fun _ _ hd ht hr =>
  ⟨step_timeout hd ht hr, step_error hd ht hr⟩

end Sys2Proof.Proofs

/-! # Everything `DecodeRun` can do, and what it consumes (R157, R158) -/

namespace Sys2Proof.Proofs

open Sys2Proof.Machine

/-- R80, R144: nine header bytes whose second is `n`, the low byte of the marker or not. -/
def header (n : Byte) (a : Addr) (t : Byte) (len : Word16) : List Byte :=
  [Config.markerHi, n, a.a0, a.a1, a.a2, a.a3, t, hi8 len, lo8 len]

/-- R58: with the marker in front, a frame's image is its header and what follows. -/
theorem image_eq_header (t : Byte) (a : Addr) (len : Word16) (body : List Byte) :
    image t a len body = header 0x01 a t len ++ body := rfl

/-- The eight bytes behind a sync byte are the rest of a header. -/
theorem exists_header {head : List Byte} (h : head.length = 8) : ∃ n a t len, head = (header n a t len).tail := by
  match head, h with
  | [n, a0, a1, a2, a3, t, hi, lo], _ =>
    exact ⟨n, ⟨a0, a1, a2, a3⟩, t, be16 hi lo, by simp [header]⟩

/-- R146: a declared length that is accepted. -/
def LenAccepted (par : Params) (len : Word16) : Prop := 2 ≤ len.toNat ∧ len.toNat ≤ par.maxLen.toNat

/-- R146: what the length check of `DecodeRun` lets pass. -/
theorem lenAccepted_iff {par : Params} {len : Word16} :
    LenAccepted par len ↔ ¬(len.toNat < 2 ∨ par.maxLen.toNat < len.toNat) := by
  unfold LenAccepted; omega

/-- R157: everything `DecodeRun` can do with the events `es`: its outcome and the events it leaves unread. -/
inductive Decoded (par : Params) (es : List LineEvent) : RxRes → List LineEvent → Prop where
  /-- R152, R153 in HUNT -/
  | failedInHunt {o : RxRes} {later : List LineEvent} (g : List Byte) (hg : ∀ b ∈ g, b ≠ 0xEF)
      (h : Fails es g o later) : Decoded par es o later
  /-- R152, R153 in HEAD -/
  | failedInHead {o : RxRes} {later : List LineEvent} (g head : List Byte) (hg : ∀ b ∈ g, b ≠ 0xEF)
      (hhead : head.length < 8) (h : Fails es (g ++ 0xEF :: head) o later) : Decoded par es o later
  /-- R145 -/
  | badMarker {later : List LineEvent} (g : List Byte) (n : Byte) (a : Addr) (t : Byte) (len : Word16)
      (hg : ∀ b ∈ g, b ≠ 0xEF) (hn : n ≠ 0x01) (h : es = (g ++ header n a t len).map LineEvent.byte ++ later) :
      Decoded par es (.err .badData .marker) later
  /-- R146 -/
  | badLength {later : List LineEvent} (g : List Byte) (a : Addr) (t : Byte) (len : Word16)
      (hg : ∀ b ∈ g, b ≠ 0xEF) (hlen : ¬LenAccepted par len)
      (h : es = (g ++ header 0x01 a t len).map LineEvent.byte ++ later) : Decoded par es (.err .badData .length) later
  /-- R152, R153 in BODY -/
  | failedInBody {o : RxRes} {later : List LineEvent} (g : List Byte) (a : Addr) (t : Byte) (len : Word16)
      (q : List Byte) (hg : ∀ b ∈ g, b ≠ 0xEF) (hlen : LenAccepted par len) (hq : q.length < len.toNat)
      (h : Fails es (g ++ image t a len q) o later) : Decoded par es o later
  /-- R149, R150, R151 -/
  | whole {later : List LineEvent} (g : List Byte) (a : Addr) (t : Byte) (len : Word16) (q : List Byte)
      (hg : ∀ b ∈ g, b ≠ 0xEF) (hlen : LenAccepted par len) (hq : q.length = len.toNat)
      (h : es = (g ++ image t a len q).map LineEvent.byte ++ later) :
      Decoded par es (bodyEnd par t (hi8 len) (lo8 len) q) later

section
variable {par : Params} {n t : Byte} {a : Addr} {len : Word16} {es : List LineEvent}

/-- R145: `DecodeRun` at a wrong marker. -/
theorem headEnd_badMarker (hn : n ≠ 0x01) :
    headEnd par (header n a t len).tail es = (.err .badData .marker, es) := if_pos hn

/-- R146: `DecodeRun` at a declared length that is not accepted. -/
theorem headEnd_badLength (hlen : ¬LenAccepted par len) :
    headEnd par (header 0x01 a t len).tail es = (.err .badData .length, es) := by
  have hrange := not_not.1 (mt lenAccepted_iff.2 hlen)
  simp only [headEnd, header, List.tail_cons, be16_hi8_lo8]
  exact (if_neg (not_not.2 rfl)).trans (if_pos hrange)

/-- R157: where the body fails, so does `DecodeRun`. -/
theorem headEnd_failedInBody {f : RxRes × List LineEvent} (hlen : LenAccepted par len)
    (h : collect len.toNat es = .error f) : headEnd par (header 0x01 a t len).tail es = f := by
  simp only [headEnd, header, List.tail_cons, be16_hi8_lo8, h]
  exact (if_neg (not_not.2 rfl)).trans (if_neg (lenAccepted_iff.1 hlen))

/-- R157: where the body is there, `DecodeRun` comes to its end. -/
theorem headEnd_whole {q : List Byte} {later : List LineEvent} (hlen : LenAccepted par len)
    (h : collect len.toNat es = .ok (q, later)) :
    headEnd par (header 0x01 a t len).tail es = (bodyEnd par t (hi8 len) (lo8 len) q, later) := by
  simp only [headEnd, header, List.tail_cons, be16_hi8_lo8, h]
  exact (if_neg (not_not.2 rfl)).trans (if_neg (lenAccepted_iff.1 hlen))

/-- R145 to R151: everything `DecodeRun` can do behind the sync byte and the eight bytes that follow it. -/
theorem headEnd_cases {later : List LineEvent} {o : RxRes} {g head : List Byte} (hg : ∀ b ∈ g, b ≠ 0xEF)
    (hhead : head.length = 8) (h : headEnd par head es = (o, later)) :
    Decoded par ((g ++ 0xEF :: head).map LineEvent.byte ++ es) o later := by
  obtain ⟨n, a, t, len, rfl⟩ := exists_header hhead
  by_cases hn : n ≠ 0x01
  · cases (headEnd_badMarker hn).symm.trans h
    exact .badMarker g n a t len hg hn rfl
  obtain rfl := not_not.1 hn
  by_cases hlen : LenAccepted par len
  · obtain ⟨q, ⟨es', hbody, hq, rfl⟩ | ⟨o', rest, hbody, hlt, hfails⟩⟩ := collect_cases len.toNat es
    · cases (headEnd_whole hlen hbody).symm.trans h
      exact .whole g a t len q hg hlen hq (by simp [image, header, Config.markerHi, Config.markerLo])
    · cases (headEnd_failedInBody hlen hbody).symm.trans h
      refine .failedInBody g a t len q hg hlen hlt ?_
      rw [image_eq_header, ← List.append_assoc]
      exact hfails.app _
  · cases (headEnd_badLength hlen).symm.trans h
    exact .badLength g a t len hg hlen rfl

end

/-- R157: the inversion of `DecodeRun`. -/
theorem decodeRun_cases {par : Params} {es later : List LineEvent} {o : RxRes}
    (h : decodeRun par es = (o, later)) : Decoded par es o later := by
  unfold decodeRun at h
  obtain ⟨g, hg, ⟨es', hhunt, rfl⟩ | ⟨o', rest, hhunt, hfails⟩⟩ := huntRun_cases es <;> simp only [hhunt] at h
  case inr =>
    cases h
    exact .failedInHunt g hg hfails
  obtain ⟨head, ⟨es'', hcollect, hhead, rfl⟩ | ⟨o', rest, hcollect, hlt, hfails⟩⟩ := collect_cases 8 es' <;>
    simp only [hcollect] at h
  case inr =>
    cases h
    exact .failedInHead g head hg hlt ((hfails.app [0xEF]).app g)
  have hdecoded := headEnd_cases hg hhead h
  rw [List.map_append, List.append_assoc] at hdecoded
  exact hdecoded

/-- R150, R151: the end of a body whose last two bytes are `ch` and `cl`, whatever its length field is. -/
theorem bodyEnd_of_append (par : Params) (t h l : Byte) (p : List Byte) (ch cl : Byte) :
    bodyEnd par t h l (p ++ [ch, cl]) =
      if par.chkVerify = true ∧ be16 ch cl ≠ BitVec.ofNat 16 (t.toNat + h.toNat + l.toNat + byteSum p) then
        .err .badData .checksum
      else .reply (t :: p) := by
  simp [bodyEnd]

/-- R150, R151: a whole body ends with its Reply, or with `CHECKSUM` where checksums are compared. -/
theorem bodyEnd_cases (par : Params) (t h l : Byte) {q : List Byte} (hq : 2 ≤ q.length) :
    (∃ r, bodyEnd par t h l q = .reply r ∧ r.length + 1 = q.length) ∨
      bodyEnd par t h l q = .err .badData .checksum ∧ par.chkVerify = true := by
  obtain ⟨p, ch, cl, rfl⟩ := exists_last_two q hq
  rw [bodyEnd_of_append]
  split
  · rename_i hchk; exact .inr ⟨rfl, hchk.1⟩
  · exact .inl ⟨_, rfl, by simp⟩

/-- R152, R153: how a stream ends in a failure, by the outcome. -/
theorem fails_outcome {es later : List LineEvent} {bs : List Byte} {o : RxRes} (h : Fails es bs o later) :
    o = .err .notResponding .none ∧
        (es = bs.map LineEvent.byte ∧ later = [] ∨ es = bs.map LineEvent.byte ++ LineEvent.timeout :: later) ∨
      o = .err .cantRead .none ∧ es = bs.map LineEvent.byte ++ LineEvent.error :: later := by
  cases h with
  | eof h => exact .inl ⟨rfl, .inl ⟨h, rfl⟩⟩
  | timeout _ h => exact .inl ⟨rfl, .inr h⟩
  | error _ h => exact .inr ⟨rfl, h⟩

/-- Settles O37: in each case of `DecodeRun` the bytes consumed are written out. -/
theorem bytesConsumedByOutcome : Obligations.BytesConsumedByOutcome := by
  intro par es later o h
  cases decodeRun_cases h with
  | failedInHunt g hg hfails =>
    refine ⟨g, [], hg, .inr (.inr (.inr ⟨?_, .inl rfl, .inl (by simp)⟩))⟩
    rw [List.append_nil]; exact fails_outcome hfails
  | failedInHead g head hg hhead hfails =>
    exact ⟨g, 0xEF :: head, hg, .inr (.inr (.inr ⟨fails_outcome hfails, .inr rfl, .inl (Nat.succ_lt_succ hhead)⟩))⟩
  | badMarker g n a t len hg hn hes =>
    exact ⟨g, (header n a t len).tail, hg, .inr (.inl ⟨.inl rfl, hes, rfl⟩)⟩
  | badLength g a t len hg hlen hes =>
    exact ⟨g, (header 0x01 a t len).tail, hg, .inr (.inl ⟨.inr rfl, hes, rfl⟩)⟩
  | failedInBody g a t len q hg hlen hq hfails =>
    refine ⟨g, image t a len q, hg, .inr (.inr (.inr ⟨fails_outcome hfails, .inr rfl, .inr ?_⟩))⟩
    refine ⟨hi8 len, lo8 len, rfl, rfl, ?_⟩
    rw [hi8_lo8_toNat, image_eq_header, List.length_append]
    simp only [header, List.length_cons, List.length_nil]
    omega
  | whole g a t len q hg hlen hq hes =>
    have hlength : (image t a len q).tail.length + 1 = 9 + len.toNat := by
      rw [← hq]; simp [image]; omega
    refine ⟨g, (image t a len q).tail, hg, ?_⟩
    obtain ⟨r, hr, hrlen⟩ | ⟨hr, hverify⟩ := bodyEnd_cases par t (hi8 len) (lo8 len) (hq ▸ hlen.1)
    · exact .inl ⟨r, len.toNat, hr, hes, hlength, hrlen.trans hq⟩
    · refine .inr (.inr (.inl ⟨hr, hverify, hes, hi8 len, lo8 len, rfl, rfl, ?_⟩))
      rw [hi8_lo8_toNat, hlength]

end Sys2Proof.Proofs

/-! # A `DECODE` in progress (R140 to R163): the RX steps and `DecodeRun` -/

namespace Sys2Proof.Proofs

open Sys2Proof.Machine

/-! ## What the deframer makes of the bytes it hears -/

/-- The state with the RX half `r` and the coming answers `es`; everything else is as in `s`. -/
def hearing (s : State) (r : Rx) (es : List LineEvent) : State :=
  { s with line := { s.line with lineIn := es }, rx := r }

/-- R140: the RX half at the start of a `DECODE`. -/
def atHunt : Rx := { state := .hunt, buf := [], cnt := 0, len := 0, sum := 0, res := .none }

/-- R143, R144: the RX half after the first bytes `q` of a header. -/
def atHead (q : List Byte) : Rx := { state := .head, buf := q, cnt := q.length, len := 0, sum := 0, res := .none }

/-- R147, R148: the RX half after an accepted header and the first bytes `q` behind it. -/
def atBody (a : Addr) (t : Byte) (len : Word16) (q : List Byte) : Rx where
  state := .body
  buf := image t a len q
  cnt := 9 + q.length
  len := len
  sum := BitVec.ofNat 16 (t.toNat + (hi8 len).toNat + (lo8 len).toNat + byteSum (q.take (len.toNat - 2)))
  res := .none

/-- R147: the RX half right after the header. -/
theorem atBody_nil (a : Addr) (t : Byte) (len : Word16) :
    atBody a t len [] =
      { state := .body, buf := header 0x01 a t len, cnt := 9, len := len
        sum := BitVec.ofNat 16 (t.toNat + (hi8 len).toNat + (lo8 len).toNat), res := .none } := by
  rw [atBody, List.take_nil]
  rfl

/-- R145, R146, R147: what the header check makes of a header: marker before length. -/
def afterHeader (par : Params) (n : Byte) (a : Addr) (t : Byte) (len : Word16) : Rx :=
  if n ≠ 0x01 then Rx.idleWith (.err .badData .marker)
  else if len.toNat < 2 ∨ par.maxLen.toNat < len.toNat then Rx.idleWith (.err .badData .length)
  else atBody a t len []

/-- `DECODE` goes from the RX half `r` to `r'` on hearing the bytes `bs`, one a step, whatever comes behind them. -/
def Hears (s : State) (r : Rx) (bs : List Byte) (r' : Rx) : Prop :=
  ∀ later, runSteps bs.length (hearing s r (bs.map LineEvent.byte ++ later)) = .next (hearing s r' later)

/-- A state is `hearing` what it has in its own registers and queue. -/
theorem eq_hearing {s : State} {r : Rx} {es : List LineEvent} (hr : s.rx = r) (hes : s.line.lineIn = es) :
    s = hearing s r es := by
  subst hr hes; rfl

/-- R148: a payload byte adds to the sum, a checksum byte, which stands at `k` or behind it, does not. -/
theorem ofNat_byteSum_take_append (n k : Nat) (q : List Byte) (b : Byte) :
    BitVec.ofNat 16 (n + byteSum ((q ++ [b]).take k)) =
      if q.length < k then BitVec.ofNat 16 (n + byteSum (q.take k)) + b.setWidth 16
      else BitVec.ofNat 16 (n + byteSum (q.take k)) := by
  by_cases hpayload : q.length < k
  · have hb : b.setWidth 16 = BitVec.ofNat 16 b.toNat := BitVec.eq_of_toNat_eq (by simp)
    rw [if_pos hpayload, hb, ← BitVec.ofNat_add, List.take_of_length_le hpayload.le,
      List.take_of_length_le (by simpa using hpayload)]
    simp [Nat.add_assoc]
  · rw [if_neg hpayload, List.take_append_of_le_length (Nat.not_lt.1 hpayload)]

section
variable {s : State} {r r' r'' : Rx} {bs cs : List Byte} {b : Byte}

/-- Nothing is heard. -/
theorem hears_nil : Hears s r [] r := fun _ => rfl

/-- Bytes heard one after the other. -/
theorem Hears.append (h : Hears s r bs r') (h' : Hears s r' cs r'') : Hears s r (bs ++ cs) r'' := by
  intro later
  rw [List.map_append, List.append_assoc, List.length_append, runSteps_add _ _ _ _ (h _)]
  exact h' later

/-- One byte is one step. -/
theorem hears_of_step (h : ∀ later, step (hearing s r (.byte b :: later)) = .next (hearing s r' later)) :
    Hears s r [b] r' := fun later => runSteps_succ (h later) 0

/-- The induction over the bytes heard: where `f` says what the RX half is after any first part of `bs`, and each byte
of `bs` leads from one to the next, all of `bs` leads from the first to the last. -/
theorem hears_all {f : List Byte → Rx} (h : ∀ q b rest, bs = q ++ b :: rest → Hears s (f q) [b] (f (q ++ [b]))) :
    Hears s (f []) bs (f bs) := by
  induction bs generalizing f with
  | nil => exact hears_nil
  | cons b bs ih =>
    have hfirst : Hears s (f []) [b] (f [b]) := h [] b bs rfl
    refine hfirst.append (ih (f := fun q => f (b :: q)) fun q c rest hq => ?_)
    exact h (b :: q) c rest (by rw [hq]; rfl)

/-- A `DECODE` that hears what stands in the queue. -/
theorem Hears.runSteps_eq {later : List LineEvent} (h : Hears s r bs r') (hr : s.rx = r)
    (hes : s.line.lineIn = bs.map LineEvent.byte ++ later) :
    runSteps bs.length s = .next { s with line := { s.line with lineIn := later }, rx := r' } := by
  conv_lhs => rw [eq_hearing hr hes]
  exact h later

/-- R55: an open transport delivers the bytes that are there. -/
theorem read_hearing (ho : s.line.isOpen = true) (later : List LineEvent) :
    (hearing s r (.byte b :: later)).line.read = (.byte b, (hearing s r later).line) :=
  Line.read_of_cons ho rfl (.inl nofun)

end

section
variable {s : State} (hd : s.host.delays = []) (ht : s.tx.state = .idle) (ho : s.line.isOpen = true)
include hd ht ho

/-- R142: bytes other than `0xEF` are discarded. -/
theorem hears_garbage {r : Rx} (hr : r.state = .hunt) {g : List Byte} (hg : ∀ b ∈ g, b ≠ 0xEF) : Hears s r g r := by
  refine hears_all (f := fun _ => r) fun q b rest hq => hears_of_step fun later => ?_
  have hb : b ≠ 0xEF := hg b (by simp [hq])
  exact step_hunt_discard (s := hearing s r _) hd ht hr (read_hearing ho later) hb

/-- R143: the sync byte. -/
theorem hears_sync : Hears s atHunt [0xEF] (atHead [0xEF]) := hears_of_step fun later =>
  step_hunt_sync (s := hearing s atHunt _) hd ht rfl (read_hearing ho later)

/-- R144: bytes up to the eighth are accumulated. -/
theorem hears_head {q bs : List Byte} (h : q.length + bs.length ≤ 8) : Hears s (atHead q) bs (atHead (q ++ bs)) := by
  have hall := hears_all (s := s) (bs := bs) (f := fun q' => atHead (q ++ q')) fun q' b rest hq =>
    hears_of_step fun later => ?_
  · rwa [List.append_nil] at hall
  have hroom : (q ++ q').length + 1 ≠ 9 := by
    rw [hq] at h; simp at h ⊢; omega
  rw [step_head_append (s := hearing s (atHead (q ++ q')) _) hd ht rfl (read_hearing ho later) hroom]
  simp [hearing, atHead, State.append, State.setLine, State.setRx]
  omega

/-- R143, R144: garbage, the sync byte and fewer than eight bytes behind it. -/
theorem hears_toHead {g bs : List Byte} (hg : ∀ b ∈ g, b ≠ 0xEF) (h : bs.length < 8) :
    Hears s atHunt (g ++ 0xEF :: bs) (atHead (0xEF :: bs)) :=
  (hears_garbage hd ht ho rfl hg).append
    ((hears_sync hd ht ho).append (hears_head hd ht ho (by simp; omega)))

/-- R144 to R147: the ninth byte, by what the header check answers. -/
theorem hears_ninth (n : Byte) (a : Addr) (t : Byte) (len : Word16) :
    Hears s (atHead [0xEF, n, a.a0, a.a1, a.a2, a.a3, t, hi8 len]) [lo8 len] (afterHeader s.par n a t len) := by
  refine hears_of_step fun later => ?_
  rw [step_head_ninth (s := hearing s (atHead _) _) hd ht rfl (read_hearing ho later) rfl, headerCheck_of_nine rfl,
    be16_hi8_lo8, afterHeader]
  by_cases hn : n ≠ 0x01
  · rw [if_pos hn, if_pos fun hright => hn hright.2]; rfl
  · obtain rfl := not_not.1 hn
    rw [if_neg hn, if_neg (not_not.2 ⟨rfl, rfl⟩)]
    by_cases hlen : len.toNat < 2 ∨ s.par.maxLen.toNat < len.toNat
    · rw [if_pos hlen]
      exact congrArg _ (if_pos hlen)
    · rw [if_neg hlen, atBody_nil]
      exact congrArg _ (if_neg hlen)

/-- R144 to R147: garbage and nine bytes that may be a header. -/
theorem hears_header {g : List Byte} (hg : ∀ b ∈ g, b ≠ 0xEF) (n : Byte) (a : Addr) (t : Byte) (len : Word16) :
    Hears s atHunt (g ++ header n a t len) (afterHeader s.par n a t len) := by
  have height := hears_toHead hd ht ho hg (bs := [n, a.a0, a.a1, a.a2, a.a3, t, hi8 len]) (by simp)
  have hnine := height.append (hears_ninth hd ht ho n a t len)
  rwa [List.append_assoc] at hnine

/-- R145: garbage and nine bytes with a wrong marker. -/
theorem hears_badMarker {g : List Byte} (hg : ∀ b ∈ g, b ≠ 0xEF) {n : Byte} (hn : n ≠ 0x01) (a : Addr) (t : Byte)
    (len : Word16) : Hears s atHunt (g ++ header n a t len) (Rx.idleWith (.err .badData .marker)) := by
  have h := hears_header hd ht ho hg n a t len
  rwa [afterHeader, if_pos hn] at h

/-- R146: garbage and a header whose declared length is not accepted. -/
theorem hears_badLength {g : List Byte} (hg : ∀ b ∈ g, b ≠ 0xEF) (a : Addr) (t : Byte) {len : Word16}
    (hlen : ¬LenAccepted s.par len) :
    Hears s atHunt (g ++ header 0x01 a t len) (Rx.idleWith (.err .badData .length)) := by
  have h := hears_header hd ht ho hg 0x01 a t len
  rwa [afterHeader, if_neg (not_not.2 rfl), if_pos (not_not.1 (mt lenAccepted_iff.2 hlen))] at h

/-- R147: garbage and an accepted header. -/
theorem hears_accepted {g : List Byte} (hg : ∀ b ∈ g, b ≠ 0xEF) (a : Addr) (t : Byte) {len : Word16}
    (hlen : LenAccepted s.par len) : Hears s atHunt (g ++ header 0x01 a t len) (atBody a t len []) := by
  have h := hears_header hd ht ho hg 0x01 a t len
  rwa [afterHeader, if_neg (not_not.2 rfl), if_neg (lenAccepted_iff.1 hlen)] at h

/-- R148: bytes behind the header that do not complete the body. -/
theorem hears_body {a : Addr} {t : Byte} {len : Word16} {q : List Byte} (h : q.length < len.toNat) :
    Hears s (atBody a t len []) q (atBody a t len q) := by
  refine hears_all (f := atBody a t len) fun q' b rest hq => hears_of_step fun later => ?_
  have hroom : 9 + q'.length + 1 ≠ 9 + len.toNat := by
    rw [hq] at h; simp at h; omega
  have hpayload : 9 + q'.length < 7 + len.toNat ↔ q'.length < len.toNat - 2 := by omega
  rw [step_body_append (s := hearing s (atBody a t len q') _) hd ht rfl (read_hearing ho later) hroom]
  simp only [hearing, atBody, hpayload, ofNat_byteSum_take_append, image, State.setLine, State.setRx,
    List.length_append, List.length_singleton, List.append_assoc, Nat.add_assoc 9]

/-- R149, R150, R151: the last byte of the body. -/
theorem hears_last {a : Addr} {t : Byte} {len : Word16} {q : List Byte} {b : Byte} (hlen : 2 ≤ len.toNat)
    (h : q.length + 1 = len.toNat) :
    Hears s (atBody a t len q) [b] (Rx.idleWith (bodyEnd s.par t (hi8 len) (lo8 len) (q ++ [b]))) := by
  refine hears_of_step fun later => ?_
  obtain rfl | ⟨p, ch, rfl⟩ := List.eq_nil_or_concat' q
  · simp at h; omega
  have hp : len.toNat = p.length + 2 := by simp at h; omega
  have hcnt : (hearing s (atBody a t len (p ++ [ch])) (.byte b :: later)).rx.cnt = 8 + len.toNat := by
    simp [hearing, atBody, hp]; omega
  have hbuf : (atBody a t len (p ++ [ch])).buf ++ [b] = image t a len (p ++ [ch, b]) := by
    simp [atBody, image]
  have hsum : (atBody a t len (p ++ [ch])).sum =
      BitVec.ofNat 16 (t.toNat + (hi8 len).toNat + (lo8 len).toNat + byteSum p) := by
    simp [atBody, hp]
  rw [step_body_last (s := hearing s (atBody a t len (p ++ [ch])) _) hd ht rfl (read_hearing ho later) hcnt,
    List.append_assoc, List.singleton_append, bodyEnd_of_append, ← hsum]
  exact complete_of_whole hbuf hp

/-- R147, R148: garbage, an accepted header, and bytes that do not complete the body. -/
theorem hears_toBody {g : List Byte} (hg : ∀ b ∈ g, b ≠ 0xEF) (a : Addr) (t : Byte) {len : Word16}
    (hlen : LenAccepted s.par len) {q : List Byte} (hq : q.length < len.toNat) :
    Hears s atHunt (g ++ image t a len q) (atBody a t len q) := by
  rw [image_eq_header, ← List.append_assoc]
  exact (hears_accepted hd ht ho hg a t hlen).append (hears_body hd ht ho hq)

/-- R149, R150, R151: garbage and a frame that is there whole. -/
theorem hears_whole {g : List Byte} (hg : ∀ b ∈ g, b ≠ 0xEF) (a : Addr) (t : Byte) {len : Word16}
    (hlen : LenAccepted s.par len) {q : List Byte} (hq : q.length = len.toNat) :
    Hears s atHunt (g ++ image t a len q) (Rx.idleWith (bodyEnd s.par t (hi8 len) (lo8 len) q)) := by
  have hlo := hlen.1
  obtain rfl | ⟨q, b, rfl⟩ := List.eq_nil_or_concat' q
  · simp at hq; omega
  have hlast : q.length + 1 = len.toNat := by simpa using hq
  have hbody := hears_toBody hd ht ho hg a t hlen (q := q) (by omega)
  have hall := hbody.append (hears_last hd ht ho hlo hlast (b := b))
  rwa [List.append_assoc, image_eq_header, List.append_assoc, ← image_eq_header] at hall

/-- R150, R151: garbage and a frame of `t` and `p` with the checksum field `c`. -/
theorem hears_frame {g : List Byte} (hg : ∀ b ∈ g, b ≠ 0xEF) (a : Addr) (t : Byte) {p : List Byte} (c : Word16)
    (hlen : p.length + 2 ≤ s.par.maxLen.toNat) :
    Hears s atHunt (g ++ image t a (lenField p) (p ++ [hi8 c, lo8 c]))
      (Rx.idleWith (if s.par.chkVerify = true ∧ c ≠ chk t p then .err .badData .checksum else .reply (t :: p))) := by
  have hmax := s.par.maxLen.isLt
  have hfield : (lenField p).toNat = p.length + 2 := lenField_toNat (by omega)
  have hwhole := hears_whole hd ht ho hg a t (len := lenField p) (q := p ++ [hi8 c, lo8 c])
    ⟨by omega, by omega⟩ (by simp [hfield])
  rwa [bodyEnd_append, be16_hi8_lo8] at hwhole

end

/-! ## The runs (R155, R160, R161, R162, R164) -/

/-- Settles O27: each of the bytes is discarded. -/
theorem huntDiscardsAnyNumberOfBytes : Obligations.HuntDiscardsAnyNumberOfBytes := fun _ _ _ hd ht hr ho hes hg =>
  (hears_garbage hd ht ho hr hg).runSteps_eq rfl hes

/-- Settles O35: the stray byte is taken for the sync byte, and the frame's own `0xEF` for the low marker byte. -/
theorem strayMarkerByteCostsTheFrame : Obligations.StrayMarkerByteCostsTheFrame := by
  intro s t p later _ hd ht hr ho hes
  have hnine : Hears s atHunt (0xEF :: (frame t p).take 8) (Rx.idleWith (.err .badData .marker)) := by
    have h := hears_badMarker hd ht ho (g := []) (by simp) (n := 0xEF) (by decide) ⟨0x01, 0xFF, 0xFF, 0xFF⟩ 0xFF
      (be16 t (hi8 (lenField p)))
    rwa [header, hi8_be16, lo8_be16] at h
  refine hnine.runSteps_eq hr (hes.trans ?_)
  rw [← List.append_assoc, ← List.map_append, List.cons_append, List.take_append_drop]

/-- Settles O36: the frame is heard whole, and its checksum is compared. -/
theorem wrongChecksum : Obligations.WrongChecksum := by
  intro s t p c later hlen hc hd ht hr ho hes
  have h := hears_frame hd ht ho (g := []) (by simp) ⟨0xFF, 0xFF, 0xFF, 0xFF⟩ t c hlen
  simp only [ne_eq, hc, not_false_eq_true, and_true] at h
  have hrun := h.runSteps_eq hr hes
  have hcount :
      ([] ++ image t ⟨0xFF, 0xFF, 0xFF, 0xFF⟩ (lenField p) (p ++ [hi8 c, lo8 c])).length = p.length + 11 := by
    simp [image]
  rwa [hcount] at hrun

/-- Settles O33: the garbage leaves no trace, and the frame is heard whole. -/
theorem decodeOfFrameIsItsReply : Obligations.DecodeOfFrameIsItsReply := by
  intro par t p g later hlen hg
  refine ⟨decodeRun_eq_reply_iff.2 ⟨g, ⟨0xFF, 0xFF, 0xFF, 0xFF⟩, t, p, chk t p, hg, ?_, hlen, .inr rfl, rfl⟩, ?_⟩
  · rw [image_eq_frame]
  · rintro s rfl hd ht hr ho hes
    have h := hears_frame hd ht ho hg ⟨0xFF, 0xFF, 0xFF, 0xFF⟩ t (chk t p) hlen
    rw [if_neg (by simp), image_eq_frame] at h
    have hrun := h.runSteps_eq hr hes
    rwa [List.length_append, frame_length, ← Nat.add_assoc] at hrun

/-! ## The steps and `DecodeRun` over the reference transport (R57, R157, R256) -/

/-- R157, R256: the RX steps over the reference transport end the `DECODE` as `DecodeRun` says, within one read more
than there are events. -/
def DecodeEnds (s : State) (es : List LineEvent) (o : RxRes) (later : List LineEvent) : Prop :=
  ∃ n, 1 ≤ n ∧ n ≤ es.length + 1 ∧
    runSteps n (hearing s atHunt es) = .next (hearing s (Rx.idleWith o) later)

/-- R256: a `DECODE` that ends with the last byte it hears. -/
theorem decodeEnds_of_hears {s : State} {bs : List Byte} {es later : List LineEvent} {o : RxRes} (hpos : 1 ≤ bs.length)
    (h : Hears s atHunt bs (Rx.idleWith o)) (hes : es = bs.map LineEvent.byte ++ later) : DecodeEnds s es o later := by
  subst hes
  exact ⟨bs.length, hpos, by simp; omega, h later⟩

section
variable {s : State} (hd : s.host.delays = []) (ht : s.tx.state = .idle) (ho : s.line.isOpen = true)
  (hk : s.line.kind = .reference)
include hd ht ho hk

/-- R152, R153: a `DECODE` that ends with a read that fails. -/
theorem decodeEnds_of_fails {r : Rx} {bs : List Byte} {es later : List LineEvent} {o : RxRes} (hr : r.state ≠ .idle)
    (h : Hears s atHunt bs r) (hfails : Fails es bs o later) : DecodeEnds s es o later := by
  refine ⟨bs.length + 1, Nat.le_add_left .., ?_⟩
  cases hfails with
  | eof hes =>
    subst hes
    have hread : (hearing s r []).line.read = (.timeout, (hearing s r []).line) := Line.read_of_nil ho hk rfl
    have hrun := h []
    rw [List.append_nil] at hrun
    exact ⟨by simp, runSteps_step hrun (step_timeout (s := hearing s r []) hd ht hr hread)⟩
  | timeout later hes =>
    subst hes
    have hread : (hearing s r (.timeout :: later)).line.read = (.timeout, (hearing s r later).line) :=
      Line.read_of_cons ho rfl (.inr hk)
    exact ⟨by simp, runSteps_step (h _) (step_timeout (s := hearing s r _) hd ht hr hread)⟩
  | error later hes =>
    subst hes
    have hread : (hearing s r (.error :: later)).line.read = (.error, (hearing s r later).line) :=
      Line.read_of_cons ho rfl (.inr hk)
    exact ⟨by simp, runSteps_step (h _) (step_error (s := hearing s r _) hd ht hr hread)⟩

/-- R157: in each case of `DecodeRun` the steps do the same. -/
theorem decodeEnds_of_decoded {es later : List LineEvent} {o : RxRes} (h : Decoded s.par es o later) :
    DecodeEnds s es o later := by
  cases h with
  | failedInHunt g hg hfails =>
    exact decodeEnds_of_fails hd ht ho hk (by simp [atHunt]) (hears_garbage hd ht ho rfl hg) hfails
  | failedInHead g head hg hhead hfails =>
    exact decodeEnds_of_fails hd ht ho hk (by simp [atHead]) (hears_toHead hd ht ho hg hhead) hfails
  | badMarker g n a t len hg hn hes =>
    exact decodeEnds_of_hears (by simp [header]) (hears_badMarker hd ht ho hg hn a t len) hes
  | badLength g a t len hg hlen hes =>
    exact decodeEnds_of_hears (by simp [header]) (hears_badLength hd ht ho hg a t hlen) hes
  | failedInBody g a t len q hg hlen hq hfails =>
    exact decodeEnds_of_fails hd ht ho hk (by simp [atBody]) (hears_toBody hd ht ho hg a t hlen hq) hfails
  | whole g a t len q hg hlen hq hes =>
    exact decodeEnds_of_hears (by simp [image]; omega) (hears_whole hd ht ho hg a t hlen hq) hes

end

/-- Settles O32: the steps follow `DecodeRun` case by case. -/
theorem decodeStepsEqualDecodeRun : Obligations.DecodeStepsEqualDecodeRun := by
  intro s hd ht hr ho hk
  have hdecoded := decodeRun_cases (par := s.par) (es := s.line.lineIn) Prod.mk.eta.symm
  obtain ⟨n, hpos, hle, hrun⟩ := decodeEnds_of_decoded hd ht ho hk hdecoded
  rw [← eq_hearing (r := atHunt) hr rfl] at hrun
  exact ⟨n, hpos, hle, hrun⟩

end Sys2Proof.Proofs

/-! # The host inside an exchange (R181, R184 to R190): what it makes of an operation that has ended -/

namespace Sys2Proof.Proofs

open Sys2Proof.Machine

/-! ## Acknowledgements (R97, R185) -/

/-- R185: a Reply that carries a status is an acknowledgement with at least one payload byte. -/
theorem ackStatus_eq_some_iff {r : List Byte} {st : Byte} : ackStatus r = some st ↔ ∃ x, r = 0x07 :: st :: x := by
  match r with
  | [] | [_] => simp [ackStatus]
  | t :: st' :: x =>
    rw [ackStatus, Option.ite_none_right_eq_some, Option.some_inj]
    exact ⟨fun ⟨ht, hst⟩ => ⟨x, by rw [ht, hst, Config.tAck]⟩, fun ⟨_, h⟩ => by cases h; exact ⟨rfl, rfl⟩⟩

/-- R184, R185: the expected shape. -/
theorem ackOk_iff {r : List Byte} : ackOk r = true ↔ ∃ x, r = 0x07 :: 0x00 :: x :=
  decide_eq_true_iff.trans ackStatus_eq_some_iff

/-- R185: on the expected shape the operation goes on. -/
theorem onOk_of_ok {r : List Byte} (h : ∃ x, r = 0x07 :: 0x00 :: x) (s f : State) : onOk r s f = f :=
  if_pos (ackOk_iff.2 h)

/-- R185: on any other Reply the operation ends with the host's `BadData`. -/
theorem onOk_of_not_ok {r : List Byte} (h : ¬∃ x, r = 0x07 :: 0x00 :: x) (s f : State) :
    onOk r s f = s.finish (.badReply r) :=
  if_neg (mt ackOk_iff.1 h)

/-- R181, R184: only the handshake fails with another failure than the framer's. -/
theorem failure_eq (g : Goal) (k : Kind) (c : Cause) :
    failure g k c = if g = .handshake then .cantConnect [] else .failed k c := by
  cases g <;> rfl

/-! ## The host's step by what it waits for -/

section
variable {s : State} {g : Goal} (hd : s.host.delays = []) (hrx : s.rx.state = .idle) (htx : s.tx.state = .idle)
include hd hrx htx

/-- R181: the request has been sent. -/
theorem step_of_sent (htask : s.host.task = .sending g) (hres : s.tx.res = .done) :
    step s = .next (afterSent g s) := by
  rw [step_task hd hrx htx (by simp [htask]), taskStep, htask]
  simp only [hres]

/-- R181: the request could not be sent. -/
theorem step_of_sendFailed {k : Kind} {c : Cause} (htask : s.host.task = .sending g) (hres : s.tx.res = .err k c) :
    step s = .next (s.finish (failure g k c)) := by
  rw [step_task hd hrx htx (by simp [htask]), taskStep, htask]
  simp only [hres]

/-- R181: the Reply has come. -/
theorem step_of_received {r : List Byte} (htask : s.host.task = .receiving g) (hres : s.rx.res = .reply r) :
    step s = .next (afterReply g r s) := by
  rw [step_task hd hrx htx (by simp [htask]), taskStep, htask]
  simp only [hres]

/-- R181: no Reply has come. -/
theorem step_of_receiveFailed {k : Kind} {c : Cause} (htask : s.host.task = .receiving g)
    (hres : s.rx.res = .err k c) : step s = .next (s.finish (failure g k c)) := by
  rw [step_task hd hrx htx (by simp [htask]), taskStep, htask]
  simp only [hres]

end

/-- Settles O55: a failed `ENCODE` and a failed `DECODE` end the operation alike. -/
theorem exchangeHandsFailuresOn : Obligations.ExchangeHandsFailuresOn := by
  intro s g k c hd hrx htx h
  rw [← failure_eq]
  obtain ⟨htask, hres⟩ | ⟨htask, hres⟩ := h
  · exact step_of_sendFailed hd hrx htx htask hres
  · exact step_of_receiveFailed hd hrx htx htask hres

/-! ## What is made of a Reply (R184, R185, R187, R188) -/

/-- R184: the outcome of a handshake. -/
theorem afterReply_handshake (r : List Byte) (s : State) :
    ((∃ x, r = 0x07 :: 0x00 :: x) → afterReply .handshake r s = s.connected.finish .done) ∧
    ((¬∃ x, r = 0x07 :: 0x00 :: x) → afterReply .handshake r s = s.finish (.cantConnect r)) :=
  ⟨fun h => if_pos (ackOk_iff.2 h), fun h => if_neg (mt ackOk_iff.1 h)⟩

/-- R187: a status other than "not found" is classified as any acknowledgement is. -/
theorem afterReply_search_of_found {r : List Byte} (h : ¬∃ x, r = 0x07 :: 0x09 :: x) (s : State) :
    afterReply .search r s = onOk r s (s.finish (positionOf r)) :=
  if_neg (mt ackStatus_eq_some_iff.1 h)

/-- R188: a status other than "enroll mismatch" is classified as any acknowledgement is. -/
theorem afterReply_modelRegister_of_match {r : List Byte} (h : ¬∃ x, r = 0x07 :: 0x0A :: x) (args : List Byte)
    (s : State) :
    afterReply (.modelRegister args) r s = onOk r s (s.goOn .modelUpload Config.tCmd (opcodeByte .upload :: args)) :=
  if_neg (mt ackStatus_eq_some_iff.1 h)

/-- R187: fewer than six bytes hold no position (log entry 13). -/
theorem positionOf_of_short {r : List Byte} (h : r.length < 6) : positionOf r = .badReply r := by
  match r with
  | [] | [_] | [_, _] | [_, _, _] | [_, _, _, _] | [_, _, _, _, _] => rfl
  | _ :: _ :: _ :: _ :: _ :: _ :: x => simp at h; omega

/-- Settles O57: the host's step is its classification of the Reply, by status. -/
theorem repliesAreClassified : Obligations.RepliesAreClassified := by
  intro s r hd hrx htx hres
  have hstep {g : Goal} (htask : s.host.task = .receiving g) := step_of_received hd hrx htx htask hres
  refine ⟨fun htask => ⟨_, hstep htask, fun hok => ?_, fun hnotOk => ?_⟩,
    fun htask => ⟨_, hstep htask, fun hok => ?_, fun hnotOk => ?_⟩,
    fun htask => ⟨_, hstep htask, ?_, ?_, ?_, fun hnotOk hfound => ?_⟩,
    fun args htask => ⟨_, hstep htask, ?_, fun hnotOk hmatch => ?_⟩⟩
  · rw [(afterReply_handshake r s).1 hok]
    exact ⟨rfl, rfl⟩
  · rw [(afterReply_handshake r s).2 hnotOk]
    exact ⟨rfl, rfl⟩
  · rw [afterReply, onOk_of_ok hok, State.finish_out]
  · rw [afterReply, onOk_of_not_ok hnotOk, State.finish_out]
  · rintro x rfl
    rfl
  · rintro ih il ch cl x rfl
    rfl
  · rintro x rfl hshort
    rw [afterReply_search_of_found (by simp), onOk_of_ok ⟨x, rfl⟩, State.finish_out]
    exact positionOf_of_short (Nat.add_lt_add_right hshort 2)
  · rw [afterReply_search_of_found hfound, onOk_of_not_ok hnotOk, State.finish_out]
  · rintro x rfl
    rfl
  · rw [afterReply_modelRegister_of_match hmatch, onOk_of_not_ok hnotOk, State.finish_out]

/-! ## The next `DECODE` of an exchange (R140, R181, R189) -/

/-- R181, R189: a `DECODE` that the host issues inside an exchange when the block is not BUSY. -/
theorem awaitReply_of_idle {s : State} (hrx : s.rx.state = .idle) (htx : s.tx.state = .idle) (g : Goal) :
    s.awaitReply g =
      { s with rx := atHunt, host := { s.host with task := .receiving g, refusal := none } } := by
  have hbusy : s.busy = false := s.busy_eq_false_iff.2 ⟨hrx, htx⟩
  rw [State.awaitReply, State.issueDecode, hbusy]
  rfl

/-- R189: the upload data phase by the tag of the packet. -/
theorem afterReply_modelData (t : Byte) (p out : List Byte) (s : State) :
    afterReply (.modelData out) (t :: p) s =
      if t = 0x08 then s.finish (.template (out ++ p))
      else if t = 0x02 then s.awaitReply (.modelData (out ++ p))
      else s.finish (.badReply (t :: p)) := rfl

/-- Settles O58: the three kinds of packet. -/
theorem uploadCollectsPackets : Obligations.UploadCollectsPackets := by
  intro s t p out hd hrx htx hres htask
  rw [step_of_received hd hrx htx htask hres, afterReply_modelData]
  refine ⟨?_, ?_, fun hdata hend => ?_⟩
  · rintro rfl
    rw [if_neg (by decide), if_pos rfl, awaitReply_of_idle hrx htx]
    rfl
  · rintro rfl
    rfl
  · rw [if_neg hend, if_neg hdata]
    rfl

/-! ## A request over the reference transport (R57, R129, R181) -/

/-- R57: the block is not BUSY, the host issues nothing out of turn, and the transport is the open reference
transport with nothing to flush. -/
structure ReadyToSend (s : State) : Prop where
  delays : s.host.delays = []
  rx : s.rx.state = .idle
  tx : s.tx.state = .idle
  isOpen : s.line.isOpen = true
  kind : s.line.kind = .reference
  sendBuf : s.line.sendBuf = []

/-- R129, R181: the request `t`, `p` of an exchange for `g` has been sent from the state `s`. -/
def requestSent (s : State) (g : Goal) (t : Byte) (p : List Byte) : State :=
  { s with
    tx := Tx.idleWith .done
    line := { onLine s.line (frame t p) with early := 0 }
    host := { s.host with task := .sending g, out := .none, refusal := none } }

/-- R181: what an exchange needs is there again once its request has been sent. -/
theorem ReadyToSend.requestSent {s : State} (h : ReadyToSend s) (g : Goal) (t : Byte) (p : List Byte) :
    ReadyToSend (requestSent s g t p) where
  delays := h.delays
  rx := h.rx
  tx := rfl
  isOpen := h.isOpen
  kind := h.kind
  sendBuf := h.sendBuf

/-- R129 item 1, R181: as many steps as the request has calls. -/
theorem runSteps_beginExchange {s : State} (h : ReadyToSend s) (g : Goal) (t : Byte) {p : List Byte}
    (hp : p.length ≤ 65533) : runSteps (p.length + 12) (s.beginExchange g t p) = .next (requestSent s g t p) := by
  have hbegin := beginExchange_of_idle h.rx h.tx g t hp
  have hcount : p.length + 12 = (frame t p).length + 1 := by rw [frame_length]
  have hloaded : (s.beginExchange g t p).tx = { state := .send, buf := frame t p, idx := 0, res := .none } := by
    rw [hbegin]
  rw [hcount, eq_sendingAt_zero hloaded, hbegin]
  exact runSteps_reference h.delays h.isOpen h.kind h.sendBuf

/-- R151, R181: the Reply `r` to the exchange for `g` has come to the state `s`, and `later` is unread. -/
def replyReceived (s : State) (g : Goal) (r : List Byte) (later : List LineEvent) : State :=
  { s with
    rx := Rx.idleWith (.reply r)
    line := { s.line with lineIn := later }
    host := { s.host with task := .receiving g, refusal := none } }

/-- R160, R181: the `DECODE` of an exchange hears garbage and a frame. -/
theorem runSteps_awaitReply {s : State} (h : ReadyToSend s) (goal : Goal) {u : Byte} {q g : List Byte}
    {later : List LineEvent} (hq : q.length + 2 ≤ s.par.maxLen.toNat) (hg : ∀ b ∈ g, b ≠ 0xEF)
    (hin : s.line.lineIn = (g ++ frame u q).map LineEvent.byte ++ later) :
    runSteps (g.length + q.length + 11) (s.awaitReply goal) = .next (replyReceived s goal (u :: q) later) := by
  rw [awaitReply_of_idle h.rx h.tx]
  exact (decodeOfFrameIsItsReply s.par u q g later hq hg).2 _ rfl h.delays h.tx rfl h.isOpen hin

/-- Settles O54: the request is sent, the host issues the `DECODE`, the frame is heard, and the host takes its
Reply. -/
theorem exchangeDeliversTheReply : Obligations.ExchangeDeliversTheReply := by
  intro s t u p q g later hrx htx hd hp hq hg ho hk hb hin
  have hready : ReadyToSend s := ⟨hd, hrx, htx, ho, hk, hb⟩
  have hsent := runSteps_beginExchange hready .exchange t hp
  have hawait : step (requestSent s .exchange t p) = .next ((requestSent s .exchange t p).awaitReply .exchange) :=
    step_of_sent (s := requestSent s .exchange t p) hd hrx rfl rfl rfl
  have hheard := runSteps_awaitReply (hready.requestSent .exchange t p) .exchange hq hg hin
  have hreply := step_of_received (s := replyReceived (requestSent s .exchange t p) .exchange (u :: q) later)
    hd rfl rfl rfl rfl
  exact ⟨_, rfl, runSteps_step ((runSteps_add _ _ _ _ (runSteps_step hsent hawait)).trans hheard) hreply⟩

/-! ## The download data phase over the reference transport (R190) -/

/-- R190: a further exchange is begun as the first one is. -/
theorem goOn_of_idle {s : State} {p : List Byte} (hrx : s.rx.state = .idle) (htx : s.tx.state = .idle)
    (g : Goal) (t : Byte) (hp : p.length ≤ 65533) : s.goOn g t p = s.beginExchange g t p := by
  rw [State.goOn, encodeRefusal_of_idle hrx htx hp]

/-- R190: what the data packets with the chunks `cs` put on the line; the last one is tagged end-of-data. -/
def packets : List (List Byte) → List Byte
  | [] => []
  | c :: cs => frame (if cs = [] then 0x08 else 0x02) c ++ packets cs

/-- R190: a chunk of 128 bytes is the last one when no other is left. -/
theorem chunkTag_append {c : List Byte} {cs : List (List Byte)} (hc : c.length = 128)
    (hcs : ∀ d ∈ cs, d.length = 128) : chunkTag (c ++ cs.flatten) = if cs = [] then 0x08 else 0x02 := by
  cases cs with
  | nil => rw [List.flatten_nil, List.append_nil]; exact if_pos hc.le
  | cons d cs =>
    have hd : d.length = 128 := hcs d (by simp)
    exact if_neg (by simp [Config.chunk, hc, hd])

/-- R190: while bytes of the template are left, a packet is sent. -/
theorem sendChunk_of_ne_nil (s : State) {rest : List Byte} (h : rest ≠ []) (pos : Word16) :
    s.sendChunk rest pos = s.goOn (.saveData (rest.drop 128) pos) (chunkTag rest) (rest.take 128) := by
  cases rest with
  | nil => exact absurd rfl h
  | cons b bs => rfl

/-- R190: the next packet takes the first 128 bytes, and the others are left. -/
theorem sendChunk_append {s : State} {c : List Byte} (hrx : s.rx.state = .idle) (htx : s.tx.state = .idle)
    (hc : c.length = 128) (rest : List Byte) (pos : Word16) :
    s.sendChunk (c ++ rest) pos = s.beginExchange (.saveData rest pos) (chunkTag (c ++ rest)) c := by
  have hne : c ++ rest ≠ [] := List.ne_nil_of_length_pos (by simp; omega)
  rw [sendChunk_of_ne_nil s hne, List.drop_left' hc, List.take_left' hc, goOn_of_idle hrx htx _ _ (by omega)]

/-- R190: of the request before, a request that was sent leaves only the frame on the line, in front of the bytes `bs`
put there between them. -/
theorem requestSent_requestSent (s : State) (g g' : Goal) (t t' : Byte) (p p' bs : List Byte) :
    requestSent ((requestSent s g t p).setLine (onLine (requestSent s g t p).line bs)) g' t' p' =
      requestSent (s.setLine (onLine s.line (frame t p ++ bs))) g' t' p' := by
  simp [requestSent, onLine, State.setLine]

/-- The induction over the chunks: each packet is one request, at whose end the host begins the next one without a
`DECODE`, and the store command comes behind the last. -/
theorem runSteps_sendChunk {cs : List (List Byte)} (hcs : ∀ c ∈ cs, c.length = 128) (pos : Word16) {s : State}
    (h : ReadyToSend s) :
    ∃ n, runSteps n (s.sendChunk cs.flatten pos) =
      .next (requestSent (s.setLine (onLine s.line (packets cs))) .ack 0x01 (storePayload pos)) := by
  induction cs generalizing s with
  | nil =>
    have hstore : (storePayload pos).length ≤ 65533 := by simp [storePayload]
    have hbegin : s.sendChunk [] pos = s.beginExchange .ack 0x01 (storePayload pos) :=
      goOn_of_idle h.rx h.tx .ack 0x01 hstore
    have hline : onLine s.line (packets []) = s.line := by simp [onLine, packets]
    refine ⟨(storePayload pos).length + 12, ?_⟩
    rw [List.flatten_nil, hbegin, hline]
    exact runSteps_beginExchange h .ack 0x01 hstore
  | cons c cs ih =>
    obtain ⟨hc, hrest⟩ := List.forall_mem_cons.1 hcs
    have hsent := runSteps_beginExchange h (.saveData cs.flatten pos) (chunkTag (c ++ cs.flatten)) (p := c) (by omega)
    have hready := h.requestSent (.saveData cs.flatten pos) (chunkTag (c ++ cs.flatten)) c
    have hnext := step_of_sent hready.delays hready.rx hready.tx rfl rfl
    obtain ⟨n, hrun⟩ := ih hrest hready
    refine ⟨c.length + 12 + 1 + n, ?_⟩
    rw [List.flatten_cons, sendChunk_append h.rx h.tx hc,
      runSteps_add _ _ _ _ (runSteps_step hsent hnext), afterSent, hrun, requestSent_requestSent,
      chunkTag_append hc hrest, packets]

/-- Settles O59: the Reply starts the data phase, of four chunks. -/
theorem saveModelSendsFourPackets : Obligations.SaveModelSendsFourPackets := by
  intro s pos c0 c1 c2 c3 x hd hrx htx h0 h1 h2 h3 hres htask ho hk hb
  have hchunks : ∀ c ∈ [c0, c1, c2, c3], c.length = 128 := by simp [h0, h1, h2, h3]
  obtain ⟨n, hrun⟩ := runSteps_sendChunk hchunks pos ⟨hd, hrx, htx, ho, hk, hb⟩
  have htemplate : [c0, c1, c2, c3].flatten = c0 ++ c1 ++ c2 ++ c3 := by simp
  have hstep := step_of_received hd hrx htx htask hres
  rw [afterReply, onOk_of_ok ⟨x, rfl⟩, ← htemplate] at hstep
  refine ⟨n + 1, (runSteps_succ hstep n).trans (hrun.trans ?_)⟩
  simp [requestSent, onLine, packets, storePayload, opcodeByte, Tx.idleWith, State.setLine]

end Sys2Proof.Proofs

/-! # The session state and the session calls (R182, R183, R195, R220, R249), and what is no operation (R180) -/

namespace Sys2Proof.Proofs

open Sys2Proof.Machine

/-! ## The host's turn -/

/-- Settles O49: it is the host's turn, and what it fetches does not decode. -/
theorem stepRefusesWhatIsNoOperation : Obligations.StepRefusesWhatIsNoOperation := by
  intro s e hops hdec hd hrx htx htask
  rw [step_host hd hrx htx htask, hostMove_of_ops_ne_nil hops, fetch, hdec]

/-- R182, R197: with no operation left the host begins its next session call, behind which the operations of that call
come. -/
theorem hostMove_of_call {s : State} {c : Call} {bs : List Byte} {cs : List SessionCall} (hops : s.host.ops = [])
    (hcalls : s.host.calls = ⟨c, bs⟩ :: cs) :
    hostMove s = .next (startCall c (s.setHost { s.host with ops := bs, calls := cs })) := by
  simp only [hostMove, hops, hcalls]

section
variable {s : State} (hrx : s.rx.state = .idle) (htx : s.tx.state = .idle) (htask : s.host.task = .none)
include hrx htx htask

/-- R182, R183: in its turn a session call needs `Connected` only. -/
theorem gated_of_idle (f : State) : s.gated f = if s.host.conn = .connected then f else s.refuse .notConnected := by
  rw [State.gated, State.oneAtATime, s.busy_eq_false_iff.2 ⟨hrx, htx⟩, s.waiting_eq_false_iff.2 htask]
  rfl

/-- R183: a session call in its turn, while `Disconnected`. -/
theorem startCall_of_disconnected {c : Call} (hconn : s.host.conn = .disconnected) (hconnect : c ≠ .connect)
    (hclose : c ≠ .close) : startCall c s = s.refuse .notConnected := by
  have hgated (f : State) : s.gated f = s.refuse .notConnected := by
    rw [gated_of_idle hrx htx htask, if_neg (by simp [hconn])]
  cases c
  case connect => exact absurd rfl hconnect
  case close => exact absurd rfl hclose
  all_goals exact hgated _

/-- R190, R249: `saveModel` in its turn, with a template of another length than 512 bytes. -/
theorem startCall_saveModel_of_length {tmpl args : List Byte} (hconn : s.host.conn = .connected)
    (hlen : tmpl.length ≠ 512) (pos : Word16) :
    startCall (.saveModel tmpl pos args) s = s.refuse .templateLength := by
  rw [startCall, gated_of_idle hrx htx htask, if_pos hconn]
  exact if_neg hlen

end

/-- Settles O60: the two gates, and `close`, which has none. -/
theorem sessionCallsAreGated : Obligations.SessionCallsAreGated := by
  intro s c bs cs hops hcalls
  refine ⟨fun hd hrx htx htask => ?_, fun ds hturn hclose => ?_⟩
  · rw [step_host hd hrx htx htask, hostMove_of_call hops hcalls]
    refine ⟨fun hconn hconnect hclose => ?_, fun tmpl pos args hconn hsave hlen => ?_⟩
    · have hgate := startCall_of_disconnected (s := s.setHost { s.host with ops := bs, calls := cs }) hrx htx htask
        hconn hconnect hclose
      exact congrArg _ hgate
    · have hgate := startCall_saveModel_of_length (s := s.setHost { s.host with ops := bs, calls := cs }) (args := args)
        hrx htx htask hconn hlen pos
      exact congrArg _ (hsave ▸ hgate)
  · subst hclose
    have hmove : step s = hostMove (s.setHost { s.host with delays := ds }) := by
      obtain hd | ⟨hd, rfl, hrx, htx, htask⟩ := hturn
      · exact step_of_delay_zero hd
      · rw [step_host hd hrx htx htask, ← hd]
        rfl
    rw [hmove]
    exact hostMove_of_call (s := s.setHost { s.host with delays := ds }) hops hcalls

/-! ## The session state over one step (R183, R184, R195, R220) -/

/-- R120, R126: issuing an `ENCODE`. -/
@[simp] theorem issueEncode_conn (s : State) (t : Byte) (p : List Byte) :
    (s.issueEncode t p).host.conn = s.host.conn := by
  obtain ⟨w, h⟩ | ⟨-, -, h⟩ := s.issueEncode_cases t p <;> rw [h] <;> rfl

/-- R140, R159: issuing a `DECODE`. -/
@[simp] theorem issueDecode_conn (s : State) : s.issueDecode.host.conn = s.host.conn := by
  unfold State.issueDecode
  split <;> rfl

/-- R181: beginning an exchange. -/
@[simp] theorem beginExchange_conn (s : State) (g : Goal) (t : Byte) (p : List Byte) :
    (s.beginExchange g t p).host.conn = s.host.conn := by
  obtain ⟨w, h⟩ | ⟨-, -, h⟩ := s.beginExchange_cases g t p <;> rw [h] <;> rfl

/-- R64, R121: a frame handed over or arriving. -/
@[simp] theorem handleFrame_conn (s : State) (t : Byte) (f : FrameForm) :
    (s.handleFrame t f).host.conn = s.host.conn := by
  cases f with
  | send p => exact issueEncode_conn s t p
  | recv a len body => rfl

/-- R183: no operation touches the session state. -/
theorem exec_conn {i : Instr} {s s' : State} (h : exec i s = .next s') : s'.host.conn = s.host.conn := by
  cases i
  case decode => cases h; exact issueDecode_conn s
  case reset => cases h; rfl
  case encode | cmd | data | endData => cases h; exact issueEncode_conn ..
  case exchange | verifyPwd | getImage | empty | readParams | setSecurity => cases h; exact beginExchange_conn ..
  all_goals cases h; exact handleFrame_conn ..

/-- R181: going on with an exchange. -/
@[simp] theorem goOn_conn (s : State) (g : Goal) (t : Byte) (p : List Byte) :
    (s.goOn g t p).host.conn = s.host.conn := by
  unfold State.goOn
  split
  · rfl
  · exact beginExchange_conn s g t p

/-- R181, R189: waiting for the Reply. -/
@[simp] theorem awaitReply_conn (s : State) (g : Goal) : (s.awaitReply g).host.conn = s.host.conn :=
  issueDecode_conn s

/-- R190: the download data phase. -/
@[simp] theorem sendChunk_conn (s : State) (rest : List Byte) (pos : Word16) :
    (s.sendChunk rest pos).host.conn = s.host.conn := by
  cases rest <;> exact goOn_conn ..

/-- R181, R190: after the request was sent. -/
@[simp] theorem afterSent_conn (g : Goal) (s : State) : (afterSent g s).host.conn = s.host.conn := by
  unfold afterSent
  split
  · exact sendChunk_conn ..
  · exact awaitReply_conn ..

/-- R185: what is done on OK decides. -/
theorem onOk_conn {r : List Byte} {s f : State} (h : f.host.conn = s.host.conn) :
    (onOk r s f).host.conn = s.host.conn := by
  unfold onOk
  split
  · exact h
  · rfl

/-- What one move does to the session state (R183). -/
inductive ConnEffect (s s' : State) : Prop where
  /-- nothing -/
  | same (hconn : s'.host.conn = s.host.conn)
  /-- R184: the handshake succeeds -/
  | connected (htask : s.host.task = .receiving .handshake) (x : List Byte)
      (hres : s.rx.res = .reply (0x07 :: 0x00 :: x)) (hconn : s'.host.conn = .connected)
  /-- R195: `close` is begun -/
  | closed (hcall : s.host.calls.head?.map SessionCall.call = some .close) (hconn : s'.host.conn = .disconnected)

/-- R184 to R193: only the Reply of a handshake can make the session `Connected`. -/
theorem afterReply_conn {g : Goal} (hg : g ≠ .handshake) (r : List Byte) (s : State) :
    (afterReply g r s).host.conn = s.host.conn := by
  cases g <;> dsimp only [afterReply]
  case exchange | saveData => rfl
  case handshake => exact absurd rfl hg
  case ack | params => exact onOk_conn rfl
  case hasConvert => split <;> rfl
  case search =>
    split
    · rfl
    · exact onOk_conn rfl
  case hasImage | modelImage | modelRegister =>
    split
    · rfl
    · exact onOk_conn (goOn_conn ..)
  case modelConvert => exact onOk_conn (goOn_conn ..)
  case modelUpload => exact onOk_conn (awaitReply_conn ..)
  case saveDownload => exact onOk_conn (sendChunk_conn ..)
  case modelData out =>
    cases r with
    | nil => rfl
    | cons t p =>
      dsimp only
      split_ifs
      · rfl
      · exact awaitReply_conn ..
      · rfl

/-- R184: what the Reply of a handshake does. -/
theorem afterReply_handshake_conn {r : List Byte} {s : State} (htask : s.host.task = .receiving .handshake)
    (hres : s.rx.res = .reply r) : ConnEffect s (afterReply .handshake r s) := by
  by_cases hok : ∃ x, r = 0x07 :: 0x00 :: x
  · obtain ⟨x, hr⟩ := hok
    rw [(afterReply_handshake r s).1 ⟨x, hr⟩]
    exact .connected htask x (hr ▸ hres) rfl
  · rw [(afterReply_handshake r s).2 hok]
    exact .same rfl

/-- R181, R184: the host's move inside an exchange. -/
theorem taskStep_conn (s : State) : ConnEffect s (taskStep s) := by
  unfold taskStep
  split
  case h_1 => exact .same rfl
  case h_2 g htask =>
    split
    · exact .same (afterSent_conn g s)
    · exact .same rfl
    · exact .same rfl
  case h_3 g htask =>
    split
    case h_1 r hres =>
      by_cases hg : g = .handshake
      · subst hg
        exact afterReply_handshake_conn htask hres
      · exact .same (afterReply_conn hg r s)
    · exact .same rfl
    · exact .same rfl

/-- R182, R183: a gated session call that is refused changes the session state no more than the call does. -/
theorem gated_conn {s f : State} (h : f.host.conn = s.host.conn) : (s.gated f).host.conn = s.host.conn := by
  unfold State.gated State.oneAtATime
  split_ifs
  · rfl
  · exact h
  · rfl

/-- R184: beginning the handshake does not yet make the session `Connected`. -/
theorem callConnect_conn (s : State) : s.callConnect.host.conn = s.host.conn := by
  unfold State.callConnect
  split
  · rfl
  · exact beginExchange_conn ..

/-- R183, R195: beginning any session call but `close`. -/
theorem startCall_conn {c : Call} (hc : c ≠ .close) (s : State) : (startCall c s).host.conn = s.host.conn := by
  cases c <;> dsimp only [startCall]
  case close => exact absurd rfl hc
  case connect =>
    unfold State.oneAtATime
    split
    · rfl
    · exact callConnect_conn s
  case saveModel | setSecurityLevel =>
    refine gated_conn ?_
    split
    · exact beginExchange_conn ..
    · rfl
  all_goals exact gated_conn (beginExchange_conn ..)

/-- R180, R183, R195: the host's move in its turn. -/
theorem hostMove_conn {s s' : State} (h : hostMove s = .next s') : ConnEffect s s' := by
  unfold hostMove at h
  split at h
  case h_1 =>
    unfold fetch at h
    split at h
    · cases h
    · have hconn := exec_conn h
      exact .same hconn
  case h_2 c cs _ hcalls =>
    cases h
    by_cases hc : c.call = .close
    · refine .closed (by rw [hcalls, List.head?_cons, Option.map_some, hc]) ?_
      rw [hc]
      rfl
    · exact .same (startCall_conn hc _)
  case h_3 =>
    cases h
    exact .same rfl

/-- R223: the move of whoever is at work; the sequencers leave the host alone. -/
theorem workMove_conn {s s' : State} (h : workMove s = .next s') : ConnEffect s s' := by
  unfold workMove at h
  split_ifs at h with htx hrx
  · obtain ⟨hhost, -⟩ := txEffect_line (txStep_cases (s.txBusy_eq_true_iff.1 htx) h)
    exact .same (by rw [hhost])
  · obtain ⟨-, he⟩ := rxStep_cases (s.rxBusy_eq_true_iff.1 hrx) h
    exact .same (by rw [he]; rfl)
  · cases h
    exact taskStep_conn s

/-- What the delays are does not matter to what a move does to the session state. -/
theorem ConnEffect.of_delays {s s' : State} {ds : List (Option Nat)}
    (h : ConnEffect (s.setHost { s.host with delays := ds }) s') : ConnEffect s s' := by
  cases h with
  | same hconn => exact .same hconn
  | connected htask x hres hconn => exact .connected htask x hres hconn
  | closed hcall hconn => exact .closed hcall hconn

/-- A step is a move of whoever is at work or of the host, up to the delays. -/
theorem step_conn {s s' : State} (h : step s = .next s') : ConnEffect s s' := by
  unfold step oneStep at h
  split at h
  case h_1 =>
    unfold turn at h
    split at h
    · exact workMove_conn h
    · exact hostMove_conn h
  case h_2 => exact (hostMove_conn h).of_delays
  case h_3 => exact (workMove_conn h).of_delays
  case h_4 =>
    split at h
    · exact workMove_conn h
    · exact (hostMove_conn h).of_delays

/-- Settles O56: of the three effects a move can have, one leads each way. -/
theorem sessionStateChangesOnlySo : Obligations.SessionStateChangesOnlySo := by
  intro s s' h
  cases step_conn h with
  | same hconn => exact ⟨fun h₀ h₁ => by simp [hconn, h₀] at h₁, fun h₀ h₁ => by simp [hconn, h₀] at h₁⟩
  | connected htask x hres hconn => exact ⟨fun _ _ => ⟨htask, x, hres⟩, fun _ h₁ => by simp [hconn] at h₁⟩
  | closed hcall hconn => exact ⟨fun _ h₁ => by simp [hconn] at h₁, fun _ _ => hcall⟩

end Sys2Proof.Proofs

/-! # Every operation ends (R255, R256), what the checksum sees (R252), and `RESET` (R240) -/

namespace Sys2Proof.Proofs

open Sys2Proof.Machine

/-! ## An `ENCODE` over any transport (R226, R256) -/

/-- R256: the `ENCODE` in progress ends within `k` steps, with `Done` or `CantWrite`. -/
def EncodeEndsWithin (s : State) (k : Nat) : Prop :=
  ∃ n s', 1 ≤ n ∧ n ≤ k ∧ runSteps n s = .next s' ∧ s'.rx = s.rx ∧ s'.line.lineIn = s.line.lineIn ∧
    (s'.tx = Tx.idleWith .done ∨ s'.tx = Tx.idleWith (.err .cantWrite .none))

/-- R256: an `ENCODE` that ends with the next step. -/
theorem encodeEndsWithin_of_end {s s' : State} (h : step s = .next s') (hrx : s'.rx = s.rx)
    (hin : s'.line.lineIn = s.line.lineIn)
    (htx : s'.tx = Tx.idleWith .done ∨ s'.tx = Tx.idleWith (.err .cantWrite .none)) (k : Nat) :
    EncodeEndsWithin s (k + 1) :=
  ⟨1, s', le_rfl, Nat.le_add_left 1 k, runSteps_succ h 0, hrx, hin, htx⟩

/-- R256: an `ENCODE` with one step more to go. -/
theorem EncodeEndsWithin.of_step {s s' : State} {k : Nat} (hends : EncodeEndsWithin s' k) (h : step s = .next s')
    (hrx : s'.rx = s.rx) (hin : s'.line.lineIn = s.line.lineIn) : EncodeEndsWithin s (k + 1) := by
  obtain ⟨n, s'', -, hle, hrun, hrx', hin', htx⟩ := hends
  exact ⟨n + 1, s'', by omega, by omega, (runSteps_succ h n).trans hrun, hrx'.trans hrx, hin'.trans hin, htx⟩

/-- R256: the induction over the `k` bytes that are left: each call is a step, and no call leads back. -/
theorem sendingAt_endsWithin {s : State} {f : List Byte} (hd : s.host.delays = []) {k i : Nat} (hk : i + k = f.length)
    (l : Line) : EncodeEndsWithin (sendingAt s f i l) (k + 1) := by
  induction k generalizing i l with
  | zero =>
    obtain rfl : i = f.length := hk
    have hin : l.flush.2.lineIn = l.lineIn := (writeOrFlush_keeps (.inl rfl)).1
    rcases hf : l.flush with ⟨_ | _, l'⟩ <;> rw [hf] at hin
    · exact encodeEndsWithin_of_end (step_sent_error hd hf) rfl hin (.inr rfl) 0
    · exact encodeEndsWithin_of_end (step_sent_ok hd hf) rfl hin (.inl rfl) 0
  | succ k ih =>
    have hi : i < f.length := by omega
    have hin : (l.write f[i]).2.lineIn = l.lineIn := (writeOrFlush_keeps (.inr ⟨f[i], rfl⟩)).1
    rcases hw : l.write f[i] with ⟨_ | _, l'⟩ <;> rw [hw] at hin
    · exact encodeEndsWithin_of_end (step_sendingAt_error hd hi hw) rfl hin (.inr rfl) (k + 1)
    · exact (ih (by omega) l').of_step (step_sendingAt_ok hd hi hw) rfl hin

/-- Settles O23: all bytes of the frame are left. -/
theorem encodeAlwaysEnds : Obligations.EncodeAlwaysEnds := by
  intro s t p hd htx
  have hends := sendingAt_endsWithin hd (Nat.zero_add (frame t p).length) s.line
  rw [← eq_sendingAt_zero htx, frame_length] at hends
  exact hends

/-! ## The ends of `ENCODE` and `DECODE` over the reference transport (R57, R256) -/

/-- R57: a flush, with bytes to flush or not. -/
theorem flush_reference {l : Line} (ho : l.isOpen = true) (hk : l.kind = .reference) :
    ∃ l', l.flush = (true, l') ∧ l'.isOpen = true ∧ l'.kind = .reference := by
  simp only [Line.flush, Line.answer_reference ho hk]
  exact ⟨_, rfl, ho, hk⟩

/-- R256: a loaded frame has been sent after as many steps as it has calls, whatever stood in the send buffer. -/
theorem runSteps_encode_reference {s : State} {t : Byte} {p : List Byte} (hd : s.host.delays = [])
    (htx : s.tx = { state := .send, buf := frame t p, idx := 0, res := .none }) (ho : s.line.isOpen = true)
    (hk : s.line.kind = .reference) :
    ∃ l, runSteps (p.length + 12) s = .next ((s.setLine l).setTx (Tx.idleWith .done)) ∧ l.isOpen = true ∧
      l.kind = .reference := by
  have hstart : s.line = onLine s.line [] := by simp [onLine]
  obtain ⟨l, hrun, bs, rfl⟩ := runSteps_sending (f := frame t p) (P := fun _ l => ∃ bs, l = onLine s.line bs) hd
    le_rfl ⟨[], hstart⟩ fun _ _ _ _ ⟨bs, hl⟩ => ⟨_, hl ▸ write_onLine ho hk bs _, _, rfl⟩
  obtain ⟨l', hflush, hopen, hkind⟩ := flush_reference (l := onLine s.line bs) ho hk
  rw [← eq_sendingAt_zero htx] at hrun
  have hall := runSteps_step hrun (step_sent_ok hd hflush)
  rw [frame_length] at hall
  exact ⟨l', hall, hopen, hkind⟩

/-- R152, R153: a loop that fails has an outcome. -/
theorem fails_ne_none {es later : List LineEvent} {bs : List Byte} {o : RxRes} (h : Fails es bs o later) :
    o ≠ .none := by
  cases h <;> exact nofun

/-- R157: so has `DecodeRun`. -/
theorem decoded_ne_none {par : Params} {es later : List LineEvent} {o : RxRes} (h : Decoded par es o later) :
    o ≠ .none := by
  cases h with
  | failedInHunt _ _ hfails | failedInHead _ _ _ _ hfails | failedInBody _ _ _ _ _ _ _ _ hfails =>
    exact fails_ne_none hfails
  | badMarker | badLength => exact nofun
  | whole _ _ t len q _ hlen hq _ =>
    obtain ⟨r, hr, -⟩ | ⟨hr, -⟩ := bodyEnd_cases par t (hi8 len) (lo8 len) (hq ▸ hlen.1)
    · rw [hr]; exact nofun
    · rw [hr]; exact nofun

/-- R256: a `DECODE` ends, with an outcome, within one read more than there are events. -/
theorem runSteps_decode_reference {s : State} (hd : s.host.delays = []) (htx : s.tx.state = .idle)
    (hrx : s.rx = atHunt) (ho : s.line.isOpen = true) (hk : s.line.kind = .reference) :
    ∃ n o later, n ≤ s.line.lineIn.length + 1 ∧ o ≠ .none ∧
      runSteps n s = .next (hearing s (Rx.idleWith o) later) := by
  obtain ⟨n, -, hle, hrun⟩ := decodeStepsEqualDecodeRun s hd htx hrx ho hk
  exact ⟨n, _, _, hle, decoded_ne_none (decodeRun_cases Prod.mk.eta.symm), hrun⟩

/-! ## What an instruction issues, and when it has ended (R90, R96, R97, R100, R255) -/

/-- What an instruction issues, and what it then means that it has ended. -/
inductive Issues (i : Instr) : Prop where
  /-- R120 -/
  | encode (t : Byte) (p : List Byte) (hreq : request i = some (t, p))
      (hexec : ∀ s, exec i s = .next (s.issueEncode t p))
      (hend : ∀ s : State, s.operationEnded i ↔ s.host.refusal = none ∧ s.encodeEnded)
  /-- R181 -/
  | exchange (t : Byte) (p : List Byte) (hreq : request i = some (t, p))
      (hexec : ∀ s, exec i s = .next (s.beginExchange .exchange t p))
      (hend : ∀ s : State, s.operationEnded i ↔ s.host.refusal = none ∧ s.exchangeEnded)
  /-- R140 -/
  | decode (hi : i = .decode)
  /-- R240 -/
  | reset (hi : i = .reset)
  /-- R64 -/
  | arrival (t : Byte) (a : Addr) (len : Word16) (body : List Byte)
      (hexec : ∀ s, exec i s = .next (s.handleFrame t (.recv a len body)))
      (hend : ∀ s : State, s.operationEnded i ↔ s.rx.state = .idle ∧ s.tx.state = .idle)

/-- Every instruction is one of these; a frame row is by its form. -/
theorem instr_issues (i : Instr) : Issues i := by
  cases i
  case decode => exact .decode rfl
  case reset => exact .reset rfl
  case encode | cmd | data | endData => exact .encode _ _ rfl (fun _ => rfl) (fun _ => Iff.rfl)
  case exchange | verifyPwd | getImage | empty | readParams | setSecurity =>
    exact .exchange _ _ rfl (fun _ => rfl) (fun _ => Iff.rfl)
  all_goals
    rename_i f
    cases f with
    | send p => exact .encode _ _ rfl (fun _ => rfl) (fun _ => Iff.rfl)
    | recv a len body => exact .arrival _ a len _ (fun _ => rfl) (fun _ => Iff.rfl)

/-! ## A run over the reference transport (R255) -/

/-- R255: both halves are IDLE over the open reference transport, and the host, which waits for `task`, has the
operations `ops` to issue and then the calls `calls` to begin. -/
structure AtRest (task : Task) (ops : List Byte) (calls : List SessionCall) (s : State) : Prop where
  delays : s.host.delays = []
  rx : s.rx.state = .idle
  tx : s.tx.state = .idle
  isOpen : s.line.isOpen = true
  kind : s.line.kind = .reference
  task : s.host.task = task
  ops : s.host.ops = ops
  calls : s.host.calls = calls

/-- R255: the run from `s` comes to a state where the operation has `ended`, the host waits for nothing, and nothing
further was issued. -/
def ComesToEnd (ended : State → Prop) (ops : List Byte) (calls : List SessionCall) (s : State) : Prop :=
  ∃ n s', runSteps n s = .next s' ∧ AtRest .none ops calls s' ∧ ended s'

/-- R255: a half that ended with `Done` has ended. -/
theorem encodeEnded_of_done {s : State} (h : s.tx = Tx.idleWith .done) : s.encodeEnded := by
  rw [State.encodeEnded, h]
  exact ⟨rfl, nofun⟩

section
variable {ended ended' : State → Prop} {ops : List Byte} {calls : List SessionCall} {s : State} {i : Instr}

/-- R255: steps made before the end are steps of the run. -/
theorem ComesToEnd.of_runSteps {s' : State} {n : Nat} (hends : ComesToEnd ended ops calls s')
    (hrun : runSteps n s = .next s') : ComesToEnd ended ops calls s := by
  obtain ⟨m, s'', hrun', hrest, hended⟩ := hends
  exact ⟨n + m, s'', (runSteps_add _ _ _ _ hrun).trans hrun', hrest, hended⟩

/-- R255: the same end, said otherwise. -/
theorem ComesToEnd.imp (hends : ComesToEnd ended ops calls s) (h : ∀ s, ended s → ended' s) :
    ComesToEnd ended' ops calls s := by
  obtain ⟨n, s', hrun, hrest, hended⟩ := hends
  exact ⟨n, s', hrun, hrest, h s' hended⟩

/-- R255: an accepted `ENCODE`. -/
theorem loadFrame_comesToEnd (h : AtRest .none ops calls s) (t : Byte) (p : List Byte) :
    ComesToEnd (fun s => s.host.refusal = none ∧ s.encodeEnded) ops calls (s.loadFrame t p) := by
  obtain ⟨l, hrun, hopen, hkind⟩ :=
    runSteps_encode_reference (s := s.loadFrame t p) h.delays rfl h.isOpen h.kind
  exact ⟨_, _, hrun, ⟨h.delays, h.rx, rfl, hopen, hkind, rfl, h.ops, h.calls⟩, rfl, encodeEnded_of_done rfl⟩

/-- R255: an accepted `DECODE`. -/
theorem startHunt_comesToEnd (h : AtRest .none ops calls s) :
    ComesToEnd (fun s => s.host.refusal = none ∧ s.decodeEnded) ops calls s.startHunt := by
  obtain ⟨n, o, later, -, hres, hrun⟩ :=
    runSteps_decode_reference (s := s.startHunt) h.delays h.tx rfl h.isOpen h.kind
  exact ⟨n, _, hrun, ⟨h.delays, rfl, h.tx, h.isOpen, h.kind, rfl, h.ops, h.calls⟩, rfl, rfl, hres⟩

/-- R181, R255: the host takes the outcome of an exchange whose `DECODE` has ended, whatever it is. -/
theorem received_comesToEnd (h : AtRest (.receiving .exchange) ops calls s) (hrefusal : s.host.refusal = none)
    (htx : s.tx = Tx.idleWith .done) (hres : s.rx.res ≠ .none) :
    ComesToEnd (fun s => s.host.refusal = none ∧ s.exchangeEnded) ops calls s := by
  have hstep : ∃ o, step s = .next (s.finish o) := by
    cases ho : s.rx.res with
    | none => exact absurd ho hres
    | reply r => exact ⟨_, step_of_received h.delays h.rx h.tx h.task ho⟩
    | err k c => exact ⟨_, step_of_receiveFailed h.delays h.rx h.tx h.task ho⟩
  obtain ⟨o, hstep⟩ := hstep
  exact ⟨1, _, runSteps_succ hstep 0, ⟨h.delays, h.rx, h.tx, h.isOpen, h.kind, rfl, h.ops, h.calls⟩, hrefusal,
    encodeEnded_of_done htx, fun _ => ⟨h.rx, hres⟩, rfl⟩

/-- R181, R255: behind the request of an exchange, when it has been sent, comes its `DECODE`. -/
theorem sent_comesToEnd (h : AtRest (.sending .exchange) ops calls s) (htx : s.tx = Tx.idleWith .done) :
    ComesToEnd (fun s => s.host.refusal = none ∧ s.exchangeEnded) ops calls s := by
  have hawait : step s = .next (s.awaitReply .exchange) :=
    step_of_sent h.delays h.rx h.tx h.task (by rw [htx]; rfl)
  rw [awaitReply_of_idle h.rx h.tx] at hawait
  obtain ⟨n, o, later, -, hres, hrun⟩ := runSteps_decode_reference
    (s := { s with rx := atHunt, host := { s.host with task := .receiving .exchange, refusal := none } })
    h.delays h.tx rfl h.isOpen h.kind
  refine ComesToEnd.of_runSteps ?_ ((runSteps_succ hawait n).trans hrun)
  exact received_comesToEnd ⟨h.delays, rfl, h.tx, h.isOpen, h.kind, rfl, h.ops, h.calls⟩ rfl htx hres

/-- R181, R255: an accepted exchange begins with its request. -/
theorem beginExchange_comesToEnd (h : AtRest .none ops calls s) (t : Byte) {p : List Byte} (hp : p.length ≤ 65533) :
    ComesToEnd (fun s => s.host.refusal = none ∧ s.exchangeEnded) ops calls (s.beginExchange .exchange t p) := by
  rw [beginExchange_of_idle h.rx h.tx .exchange t hp]
  obtain ⟨l, hrun, hopen, hkind⟩ := runSteps_encode_reference
    (s :=
      { s with
        tx := { state := .send, buf := frame t p, idx := 0, res := .none }
        host := { s.host with task := .sending .exchange, out := .none, refusal := none } })
    h.delays rfl h.isOpen h.kind
  refine ComesToEnd.of_runSteps ?_ hrun
  exact sent_comesToEnd ⟨h.delays, h.rx, rfl, hopen, hkind, rfl, h.ops, h.calls⟩ rfl

/-- R255, R256: every operation issued at rest ends. -/
theorem operation_comesToEnd (h : AtRest .none ops calls s)
    (hfits : ∀ t p, request i = some (t, p) → p.length ≤ 65533) :
    ∃ s', exec i s = .next s' ∧ ComesToEnd (·.operationEnded i) ops calls s' := by
  cases instr_issues i with
  | encode t p hreq hexec hend =>
    refine ⟨_, hexec s, ?_⟩
    rw [issueEncode_of_idle h.rx h.tx t (hfits t p hreq)]
    exact (loadFrame_comesToEnd h t p).imp fun s => (hend s).2
  | exchange t p hreq hexec hend =>
    exact ⟨_, hexec s, (beginExchange_comesToEnd h t (hfits t p hreq)).imp fun s => (hend s).2⟩
  | decode hi =>
    subst hi
    exact ⟨_, decodeStartsTheHunt s h.rx h.tx, startHunt_comesToEnd h⟩
  | reset hi =>
    subst hi
    exact ⟨_, rfl, 0, _, rfl, ⟨h.delays, rfl, rfl, h.isOpen, h.kind, rfl, h.ops, h.calls⟩, rfl, rfl⟩
  | arrival t a len body hexec hend =>
    exact ⟨_, hexec s, 0, _, rfl, ⟨h.delays, h.rx, h.tx, h.isOpen, h.kind, h.task, h.ops, h.calls⟩,
      (hend _).2 ⟨h.rx, h.tx⟩⟩

/-- R182, R255: the next operation of the host's stream is issued in its turn, and ends. -/
theorem next_comesToEnd (h : AtRest .none (encode i ++ ops) calls s) (hwf : i.wellFormed = true)
    (hfits : ∀ t p, request i = some (t, p) → p.length ≤ 65533) :
    ComesToEnd (·.operationEnded i) ops calls s := by
  have hdec : decode s.host.ops = .ok (i, ops) := by rw [h.ops]; exact decodeOfEncode i ops hwf
  have hissued : AtRest .none ops calls (s.setHost { s.host with ops := ops }) :=
    ⟨h.delays, h.rx, h.tx, h.isOpen, h.kind, h.task, rfl, h.calls⟩
  obtain ⟨s', hexec, hends⟩ := operation_comesToEnd hissued hfits
  have hstep : step s = .next s' := by
    rw [step_host h.delays h.rx h.tx h.task, hostMove_of_decode_ok hdec, hexec]
  exact hends.of_runSteps (runSteps_succ hstep 0)

end

/-- R255: the induction over the program: its operations are issued and end one after the other. -/
theorem program_comesToRest {prog : List Instr} {ops : List Byte} {calls : List SessionCall} {s : State}
    (h : AtRest .none (prog.flatMap encode ++ ops) calls s) (hwf : ∀ i ∈ prog, i.wellFormed = true)
    (hfits : ∀ i ∈ prog, ∀ t p, request i = some (t, p) → p.length ≤ 65533) :
    ∃ n s', runSteps n s = .next s' ∧ AtRest .none ops calls s' := by
  induction prog generalizing s with
  | nil => exact ⟨0, s, rfl, h⟩
  | cons i prog ih =>
    obtain ⟨hwf₁, hwf₂⟩ := List.forall_mem_cons.1 hwf
    obtain ⟨hfits₁, hfits₂⟩ := List.forall_mem_cons.1 hfits
    rw [List.flatMap_cons, List.append_assoc] at h
    obtain ⟨n, s₁, hrun₁, hrest₁, -⟩ := next_comesToEnd h hwf₁ hfits₁
    obtain ⟨m, s₂, hrun₂, hrest₂⟩ := ih hrest₁ hwf₂ hfits₂
    exact ⟨n + m, s₂, (runSteps_add _ _ _ _ hrun₁).trans hrun₂, hrest₂⟩

/-- R255: the run of a program ends: its last operation is issued when those before it have ended. -/
theorem program_ends {prog : List Instr} {calls : List SessionCall} {s : State} (hne : prog ≠ [])
    (h : AtRest .none (prog.flatMap encode) calls s) (hwf : ∀ i ∈ prog, i.wellFormed = true)
    (hfits : ∀ i ∈ prog, ∀ t p, request i = some (t, p) → p.length ≤ 65533) :
    ∃ n s', runSteps n s = .next s' ∧ AtRest .none [] calls s' ∧ s'.runEnded prog := by
  obtain ⟨before, i, rfl⟩ := (List.eq_nil_or_concat' prog).resolve_left hne
  obtain ⟨hwf₁, hwf₂⟩ := List.forall_mem_append.1 hwf
  obtain ⟨hfits₁, hfits₂⟩ := List.forall_mem_append.1 hfits
  rw [List.flatMap_append, List.flatMap_singleton, ← List.append_nil (encode i)] at h
  obtain ⟨n, s₁, hrun₁, hrest₁⟩ := program_comesToRest h hwf₁ hfits₁
  obtain ⟨m, s₂, hrun₂, hrest₂, hended⟩ :=
    next_comesToEnd hrest₁ (hwf₂ i (List.mem_singleton_self i)) (hfits₂ i (List.mem_singleton_self i))
  refine ⟨n + m, s₂, (runSteps_add _ _ _ _ hrun₁).trans hrun₂, hrest₂, hrest₂.ops, ?_⟩
  rw [List.getLast?_concat]
  rintro _ ⟨⟩
  exact hended

/-- R37, R255: at rest with nothing left to do, the machine stays as it is. -/
theorem runSteps_of_nothing {s : State} (h : AtRest .none [] [] s) (m : Nat) : runSteps m s = .next s := by
  induction m with
  | zero => rfl
  | succ m ih =>
    have hstay := idleBlockDoesNothing s h.ops h.calls h.delays h.task h.rx h.tx
    exact (runSteps_succ hstay m).trans ih

/-- Settles O24: the two operations by their ends, and a program by the induction over its operations. -/
theorem everyOperationEndsOverTheReferenceTransport : Obligations.EveryOperationEndsOverTheReferenceTransport := by
  intro s hd hrx htx ho hk
  refine ⟨fun t p hp => ?_, ?_, fun prog hne hwf hfits hops htask => ?_⟩
  · obtain ⟨l, hrun, -⟩ := runSteps_encode_reference (s := s.loadFrame t p) hd rfl ho hk
    exact ⟨_, _, encodeLoadsTheFrame s t p hrx htx hp, hrun, encodeEnded_of_done rfl⟩
  · obtain ⟨n, o, later, hle, hres, hrun⟩ := runSteps_decode_reference (s := s.startHunt) hd htx rfl ho hk
    exact ⟨n, _, _, hle, decodeStartsTheHunt s hrx htx, hrun, rfl, hres⟩
  · obtain ⟨n, s', hrun, hrest, hended⟩ :=
      program_ends hne ⟨hd, hrx, htx, ho, hk, htask, hops, rfl⟩ hwf hfits
    refine ⟨n, s', hrun, hended, fun hcalls m => ⟨s', ?_, rfl⟩⟩
    rw [hcalls] at hrest
    exact runSteps_of_nothing hrest m

/-! ## What the checksum sees (R252) -/

/-- Settles O16: neither the length field nor the sum depends on the order. -/
theorem checksumBlindToOrder : Obligations.ChecksumBlindToOrder := by
  intro t p q h
  rw [chk, chk, lenField_congr h.length_eq, byteSum_perm h]

/-- R252: with the same length field, equal checksums have sums of type and payload that are equal modulo 65536. -/
theorem sum_mod_eq_of_chk_eq {t u : Byte} {p q : List Byte} (hlen : p.length = q.length) (h : chk t p = chk u q) :
    (t.toNat + byteSum p) % 65536 = (u.toNat + byteSum q) % 65536 := by
  have hsum := congrArg BitVec.toNat h
  rw [chk_toNat, chk_toNat, lenField_congr hlen] at hsum
  omega

/-- Settles O17: two bytes that differ differ by less than the modulus. -/
theorem checksumSeesOneChangedByte : Obligations.ChecksumSeesOneChangedByte := by
  constructor
  · intro t b c p q hne h
    have hsum := sum_mod_eq_of_chk_eq (by simp) h
    simp only [byteSum_append, byteSum_cons] at hsum
    have hb := byte_lt b
    have hc := byte_lt c
    exact hne (BitVec.eq_of_toNat_eq (by omega))
  · intro t u p hne h
    have hsum := sum_mod_eq_of_chk_eq rfl h
    have ht := byte_lt t
    have hu := byte_lt u
    exact hne (BitVec.eq_of_toNat_eq (by omega))

/-! ## `RESET` (R240, R241) -/

/-- Settles O2: `RESET` tests nothing, and writes the two halves and the host's record only. -/
theorem resetClearsBothHalvesInAnyState : Obligations.ResetClearsBothHalvesInAnyState := fun _ => rfl

end Sys2Proof.Proofs
